-- ==== Sys2Proof/Word.lean ====
section
/-! DEFINITION. The word types of the block and the Pixel of the spec's glossary (00_scope.md section 5). -/

namespace Sys2Proof

/-- A byte of SRC or OUT (20_memory.md R30). -/
abbrev Byte := BitVec 8

/-- The value of one register transaction (10_state.md R11). -/
abbrev RegWord := BitVec 16

/-- A Pixel: "an (r, g, b) triple of 8-bit unsigned channel values. No alpha". -/
structure Pixel where
  r : Byte
  g : Byte
  b : Byte
  deriving DecidableEq, Repr, Inhabited

/-- A Palette: four Pixels, indexed 0 to 3 (10_state.md R22). -/
structure Palette where
  c0 : Pixel
  c1 : Pixel
  c2 : Pixel
  c3 : Pixel
  deriving DecidableEq, Repr, Inhabited

/-- `P[i]` of the spec's notation: entry i of a palette, i in 0 to 3. -/
def Palette.entry (P : Palette) (i : BitVec 2) : Pixel :=
  match i.toNat with
  | 0 => P.c0
  | 1 => P.c1
  | 2 => P.c2
  | _ => P.c3

end Sys2Proof
end

