-- ==== Sys2Proof/Config.lean ====
section
/-! DEFINITION. What an implementation of the block fixes (00_scope.md R6 to R8) and the free values: opaque constants that
no proof can look into, one for each value the spec leaves unspecified (93_implementation_defined.md). -/

namespace Sys2Proof

/-- The constants that 00_scope.md R6 and R8 let a model take as its configuration. Their values are
`Sys2Proof.Machine.params`. -/
structure Params where
  /-- palette A -/
  palA : Palette
  /-- palette B -/
  palB : Palette
  /-- MAX_W, largest working width in source pixels -/
  maxW : Nat
  /-- MAX_H, largest working height in rows -/
  maxH : Nat
  /-- THRESH, the luminance threshold -/
  thresh : Nat
  /-- KR, luma weight of r -/
  kr : Nat
  /-- KG, luma weight of g -/
  kg : Nat
  /-- KB, luma weight of b -/
  kb : Nat
  /-- KDIV, the luma divisor -/
  kdiv : Nat
  deriving DecidableEq, Repr

namespace Config

/-- SRC_BYTES (00_scope.md R7): SRC has the offsets 0 to 147455. -/
abbrev srcBytes : Nat := 147456

/-- OUT_BYTES (00_scope.md R7): OUT has the offsets 0 to 6143. -/
abbrev outBytes : Nat := 6144

/-- FREE VALUE (U5, log 5): the byte at an offset of SRC that HOST never wrote since power-up, fixed per offset. -/
opaque srcUnwritten : Nat → Byte

/-- FREE VALUE (U4, log 6): the byte an OutRead at or above OUT_CNT returns, a fresh one for each draw. -/
opaque outUnspecified : Nat → Byte

/-- FREE VALUE (log 8): the code CODE4 gives outside its operands' ranges, a fresh one for each draw. -/
opaque codeUnspecified : Nat → BitVec 2

/-- FREE VALUE (log 8): a byte GROUP4, ROW4, GROUP1 or ROW1 gives outside its operands' ranges, a fresh one for each draw. -/
opaque unitUnspecified : Nat → Byte

/-- SRC_BASE (D33, U16): where a platform places SRC. No rule uses it, and nothing of the model does. -/
opaque srcBase : Nat

/-- OUT_BASE (D33, U16): where a platform places OUT. No rule uses it, and nothing of the model does. -/
opaque outBase : Nat

/-- REG_BASE (D33, U16): where a platform places the registers. No rule uses it, and nothing of the model does. -/
opaque regBase : Nat

end Config

end Sys2Proof
end

