-- ==== Sys2Proof/Syntax.lean ====
section
/-! DEFINITION. The operations of the block: one constructor for each row of spec/opcode_table.json, in the table's order, and
the requests in which HOST presents them. Ignored bits of a transaction are no operands (30_encoding.md R59). -/

namespace Sys2Proof

/-- The rows of spec/opcode_table.json. -/
inductive Instr where
  -- Format HOST: the register transactions (30_encoding.md R59).
  | rdCtrl
  | start
  | wrCtrlNop
  | rdStatus
  | wrStatus
  | rdErrcode
  | wrErrcode
  | rdMode
  | wrMode (d : BitVec 2)
  | rdPalsel
  | wrPalsel (d : BitVec 2)
  | rdCfgW
  | wrCfgW (d : RegWord)
  | rdCfgH
  | wrCfgH (d : RegWord)
  | rdImgW
  | wrImgW (d : RegWord)
  | rdImgH
  | wrImgH (d : RegWord)
  | rdPosY
  | wrPosY
  | rdPosG
  | wrPosG
  | rdOutCnt
  | wrOutCnt
  | rdRsvd
  | wrRsvd
  -- Format SEL: the operations a selector value stands for (30_encoding.md R57); p holds the selector's don't-care bits.
  | enc4A
  | enc4B
  | selRsvdPal (p : BitVec 1)
  | enc1 (p : BitVec 2)
  | selRsvdMode (p : BitVec 3)
  -- Format UNIT: the datapath units with their operands (40_nearest_color.md to 43_pack1.md).
  | dist (p q : Pixel)
  | nearest (p : Pixel)
  | merge (a b : Pixel)
  | code4 (y : BitVec 8) (j : BitVec 7)
  | group4 (y : BitVec 8) (g : BitVec 6)
  | row4 (y : BitVec 8)
  | luma (p : Pixel)
  | thresh (p : Pixel)
  | group1 (y : BitVec 8) (g : BitVec 6)
  | row1 (y : BitVec 8)
  -- Format PRIM: the primitives that are no register transaction (30_encoding.md R59).
  | step
  | outRead (k : BitVec 13)
  | srcWrite (a : BitVec 18) (v : Byte)
  | reset
  deriving DecidableEq, Repr

/-- The formats of 30_encoding.md R50 that operations have. -/
inductive Format where
  | host
  | sel
  | unit
  | prim
  deriving DecidableEq, Repr

/-- The format of each row. -/
def Instr.format : Instr → Format
  | .rdCtrl => .host
  | .start => .host
  | .wrCtrlNop => .host
  | .rdStatus => .host
  | .wrStatus => .host
  | .rdErrcode => .host
  | .wrErrcode => .host
  | .rdMode => .host
  | .wrMode _ => .host
  | .rdPalsel => .host
  | .wrPalsel _ => .host
  | .rdCfgW => .host
  | .wrCfgW _ => .host
  | .rdCfgH => .host
  | .wrCfgH _ => .host
  | .rdImgW => .host
  | .wrImgW _ => .host
  | .rdImgH => .host
  | .wrImgH _ => .host
  | .rdPosY => .host
  | .wrPosY => .host
  | .rdPosG => .host
  | .wrPosG => .host
  | .rdOutCnt => .host
  | .wrOutCnt => .host
  | .rdRsvd => .host
  | .wrRsvd => .host
  | .enc4A => .sel
  | .enc4B => .sel
  | .selRsvdPal _ => .sel
  | .enc1 _ => .sel
  | .selRsvdMode _ => .sel
  | .dist _ _ => .unit
  | .nearest _ => .unit
  | .merge _ _ => .unit
  | .code4 _ _ => .unit
  | .group4 _ _ => .unit
  | .row4 _ => .unit
  | .luma _ => .unit
  | .thresh _ => .unit
  | .group1 _ _ => .unit
  | .row1 _ => .unit
  | .step => .prim
  | .outRead _ => .prim
  | .srcWrite _ _ => .prim
  | .reset => .prim

/-- What is placed before the block (log 1): the 21-bit word of a host transaction (30_encoding.md R58), the 4-bit selector of
an encoding operation (R57), or an operation of a format that carries no bits (UNIT, PRIM; R50). -/
inductive Request where
  | host (t : BitVec 21)
  | sel (w : BitVec 4)
  | direct (i : Instr)
  deriving DecidableEq, Repr

end Sys2Proof
end

