-- ==== Sys2Proof/WellFormed.lean ====
section
/-! DEFINITION. The operand checks that the spec gives an operation whatever the state: the offsets its memories have. -/

namespace Sys2Proof

/-- An operation whose operands name something the block has: `OutRead(k)` has k < 6144 (45_host_interface.md R149), `SrcWrite(a, v)`
has a < 147456 (20_memory.md R34). A unit's row, column and group are values at which the unit runs, inside the image or not
(log 8), so they are not checked. -/
def Instr.wellFormed : Instr → Bool
  | .rdCtrl => true
  | .start => true
  | .wrCtrlNop => true
  | .rdStatus => true
  | .wrStatus => true
  | .rdErrcode => true
  | .wrErrcode => true
  | .rdMode => true
  | .wrMode _ => true
  | .rdPalsel => true
  | .wrPalsel _ => true
  | .rdCfgW => true
  | .wrCfgW _ => true
  | .rdCfgH => true
  | .wrCfgH _ => true
  | .rdImgW => true
  | .wrImgW _ => true
  | .rdImgH => true
  | .wrImgH _ => true
  | .rdPosY => true
  | .wrPosY => true
  | .rdPosG => true
  | .wrPosG => true
  | .rdOutCnt => true
  | .wrOutCnt => true
  | .rdRsvd => true
  | .wrRsvd => true
  | .enc4A => true
  | .enc4B => true
  | .selRsvdPal _ => true
  | .enc1 _ => true
  | .selRsvdMode _ => true
  | .dist _ _ => true
  | .nearest _ => true
  | .merge _ _ => true
  | .code4 _ _ => true
  | .group4 _ _ => true
  | .row4 _ => true
  | .luma _ => true
  | .thresh _ => true
  | .group1 _ _ => true
  | .row1 _ => true
  | .step => true
  | .outRead k => decide (k.toNat < Config.outBytes)
  | .srcWrite a _ => decide (a.toNat < Config.srcBytes)
  | .reset => true

end Sys2Proof
end

