-- ==== Sys2Proof/Decode.lean ====
section
/-! DEFINITION. The decoder of host transactions and operation selectors (30_encoding.md R57 to R59), the requests that carry
no bits, the encoder, and the rows' patterns in spec/opcode_table.json. -/

namespace Sys2Proof

/-- Why a request is no operation. -/
inductive DecodeError where
  /-- a number of more than the 21 bits of a transaction word -/
  | hostWordTooWide
  /-- a register number of more than 4 bits, which no 21-bit word holds -/
  | noSuchRegister
  /-- a number of more than the 4 bits of a selector -/
  | selWordTooWide
  /-- a register transaction or a selector presented without its bits -/
  | formatHasBits
  deriving DecidableEq, Repr

/-- A transaction with we = 0, by its register number. -/
def decodeRead (regno : Nat) : Except DecodeError Instr :=
  match regno with
  | 0 => .ok .rdCtrl
  | 1 => .ok .rdStatus
  | 2 => .ok .rdErrcode
  | 3 => .ok .rdMode
  | 4 => .ok .rdPalsel
  | 5 => .ok .rdCfgW
  | 6 => .ok .rdCfgH
  | 7 => .ok .rdImgW
  | 8 => .ok .rdImgH
  | 9 => .ok .rdPosY
  | 10 => .ok .rdPosG
  | 11 => .ok .rdOutCnt
  | 12 => .ok .rdRsvd
  | 13 => .ok .rdRsvd
  | 14 => .ok .rdRsvd
  | 15 => .ok .rdRsvd
  | _ => .error .noSuchRegister

/-- A transaction with we = 1, by its register number and its write data; CTRL is decoded by `wdata[0]` too. -/
def decodeWrite (regno wdata : Nat) : Except DecodeError Instr :=
  match regno with
  | 0 => .ok (if wdata % 2 = 1 then .start else .wrCtrlNop)
  | 1 => .ok .wrStatus
  | 2 => .ok .wrErrcode
  | 3 => .ok (.wrMode (BitVec.ofNat 2 wdata))
  | 4 => .ok (.wrPalsel (BitVec.ofNat 2 wdata))
  | 5 => .ok (.wrCfgW (BitVec.ofNat 16 wdata))
  | 6 => .ok (.wrCfgH (BitVec.ofNat 16 wdata))
  | 7 => .ok (.wrImgW (BitVec.ofNat 16 wdata))
  | 8 => .ok (.wrImgH (BitVec.ofNat 16 wdata))
  | 9 => .ok .wrPosY
  | 10 => .ok .wrPosG
  | 11 => .ok .wrOutCnt
  | 12 => .ok .wrRsvd
  | 13 => .ok .wrRsvd
  | 14 => .ok .wrRsvd
  | 15 => .ok .wrRsvd
  | _ => .error .noSuchRegister

/-- A transaction word `T = we ‖ regno[3:0] ‖ wdata[15:0]` given as a number (30_encoding.md R58, R59). -/
def decodeHostWord (w : Nat) : Except DecodeError Instr :=
  match w / 2 ^ 20 with
  | 0 => decodeRead (w / 2 ^ 16 % 16)
  | 1 => decodeWrite (w / 2 ^ 16 % 16) (w % 2 ^ 16)
  | _ => .error .hostWordTooWide

/-- A selector `SEL = MODE[1:0] ‖ PALSEL[1:0]` given as a number (30_encoding.md R57). -/
def decodeSelWord (w : Nat) : Except DecodeError Instr :=
  match w / 4 with
  | 0 =>
    match w % 4 with
    | 0 => .ok .enc4A
    | 1 => .ok .enc4B
    | _ => .ok (.selRsvdPal (BitVec.ofNat 1 w))
  | 1 => .ok (.enc1 (BitVec.ofNat 2 w))
  | 2 => .ok (.selRsvdMode (BitVec.ofNat 3 w))
  | 3 => .ok (.selRsvdMode (BitVec.ofNat 3 w))
  | _ => .error .selWordTooWide

/-- An operation of a format that carries no bits, presented as it is, with every value of its operands: what it does with one
is its meaning's to say. -/
def decodeDirect (i : Instr) : Except DecodeError Instr :=
  match i.format with
  | .host => .error .formatHasBits
  | .sel => .error .formatHasBits
  | .unit => .ok i
  | .prim => .ok i

/-- The operation a request stands for. -/
def decode (r : Request) : Except DecodeError Instr :=
  match r with
  | .host t => decodeHostWord t.toNat
  | .sel w => decodeSelWord w.toNat
  | .direct i => decodeDirect i

/-- The 21-bit word of the triple (we, regno, wdata) (30_encoding.md R58). -/
def hostWord (we : BitVec 1) (regno : BitVec 4) (wdata : RegWord) : BitVec 21 :=
  we ++ regno ++ wdata

/-- The word of a read of a register; the ignored write data is 0. -/
def readWord (regno : BitVec 4) : Request := .host (hostWord 0 regno 0)

/-- The word of a write of a register. -/
def writeWord (regno : BitVec 4) (wdata : RegWord) : Request := .host (hostWord 1 regno wdata)

/-- The selector word of a mode and a palette selector (30_encoding.md R57). -/
def selWord (mode palsel : BitVec 2) : BitVec 4 := mode ++ palsel

/-- The request that stands for an operation, written from the patterns of 30_encoding.md R57 and R59; bits the pattern
ignores are 0 (log 13). -/
def encode (i : Instr) : Request :=
  match i with
  | .rdCtrl => readWord 0
  | .start => writeWord 0 1
  | .wrCtrlNop => writeWord 0 0
  | .rdStatus => readWord 1
  | .wrStatus => writeWord 1 0
  | .rdErrcode => readWord 2
  | .wrErrcode => writeWord 2 0
  | .rdMode => readWord 3
  | .wrMode d => writeWord 3 (d.setWidth 16)
  | .rdPalsel => readWord 4
  | .wrPalsel d => writeWord 4 (d.setWidth 16)
  | .rdCfgW => readWord 5
  | .wrCfgW d => writeWord 5 d
  | .rdCfgH => readWord 6
  | .wrCfgH d => writeWord 6 d
  | .rdImgW => readWord 7
  | .wrImgW d => writeWord 7 d
  | .rdImgH => readWord 8
  | .wrImgH d => writeWord 8 d
  | .rdPosY => readWord 9
  | .wrPosY => writeWord 9 0
  | .rdPosG => readWord 10
  | .wrPosG => writeWord 10 0
  | .rdOutCnt => readWord 11
  | .wrOutCnt => writeWord 11 0
  | .rdRsvd => readWord 12
  | .wrRsvd => writeWord 12 0
  | .enc4A => .sel (selWord 0 0)
  | .enc4B => .sel (selWord 0 1)
  | .selRsvdPal p => .sel (selWord 0 (1#1 ++ p))
  | .enc1 p => .sel (selWord 1 p)
  | .selRsvdMode p => .sel (1#1 ++ p)
  | .dist p q => .direct (.dist p q)
  | .nearest p => .direct (.nearest p)
  | .merge a b => .direct (.merge a b)
  | .code4 y j => .direct (.code4 y j)
  | .group4 y g => .direct (.group4 y g)
  | .row4 y => .direct (.row4 y)
  | .luma p => .direct (.luma p)
  | .thresh p => .direct (.thresh p)
  | .group1 y g => .direct (.group1 y g)
  | .row1 y => .direct (.row1 y)
  | .step => .direct .step
  | .outRead k => .direct (.outRead k)
  | .srcWrite a v => .direct (.srcWrite a v)
  | .reset => .direct .reset

/-- The `mask` and `match` of each row of spec/opcode_table.json that has an encoding: a word w is the row's when
`w & mask = match`. A UNIT row has the selector pattern under which the unit is active. -/
def Instr.tableRow (i : Instr) : Option (Nat × Nat) :=
  match i with
  | .rdCtrl => some (0x1F0000, 0x000000)
  | .start => some (0x1F0001, 0x100001)
  | .wrCtrlNop => some (0x1F0001, 0x100000)
  | .rdStatus => some (0x1F0000, 0x010000)
  | .wrStatus => some (0x1F0000, 0x110000)
  | .rdErrcode => some (0x1F0000, 0x020000)
  | .wrErrcode => some (0x1F0000, 0x120000)
  | .rdMode => some (0x1F0000, 0x030000)
  | .wrMode _ => some (0x1F0000, 0x130000)
  | .rdPalsel => some (0x1F0000, 0x040000)
  | .wrPalsel _ => some (0x1F0000, 0x140000)
  | .rdCfgW => some (0x1F0000, 0x050000)
  | .wrCfgW _ => some (0x1F0000, 0x150000)
  | .rdCfgH => some (0x1F0000, 0x060000)
  | .wrCfgH _ => some (0x1F0000, 0x160000)
  | .rdImgW => some (0x1F0000, 0x070000)
  | .wrImgW _ => some (0x1F0000, 0x170000)
  | .rdImgH => some (0x1F0000, 0x080000)
  | .wrImgH _ => some (0x1F0000, 0x180000)
  | .rdPosY => some (0x1F0000, 0x090000)
  | .wrPosY => some (0x1F0000, 0x190000)
  | .rdPosG => some (0x1F0000, 0x0A0000)
  | .wrPosG => some (0x1F0000, 0x1A0000)
  | .rdOutCnt => some (0x1F0000, 0x0B0000)
  | .wrOutCnt => some (0x1F0000, 0x1B0000)
  | .rdRsvd => some (0x1C0000, 0x0C0000)
  | .wrRsvd => some (0x1C0000, 0x1C0000)
  | .enc4A => some (0xF, 0x0)
  | .enc4B => some (0xF, 0x1)
  | .selRsvdPal _ => some (0xE, 0x2)
  | .enc1 _ => some (0xC, 0x4)
  | .selRsvdMode _ => some (0x8, 0x8)
  | .dist _ _ => some (0xE, 0x0)
  | .nearest _ => some (0xE, 0x0)
  | .merge _ _ => some (0xE, 0x0)
  | .code4 _ _ => some (0xE, 0x0)
  | .group4 _ _ => some (0xE, 0x0)
  | .row4 _ => some (0xE, 0x0)
  | .luma _ => some (0xC, 0x4)
  | .thresh _ => some (0xC, 0x4)
  | .group1 _ _ => some (0xC, 0x4)
  | .row1 _ => some (0xC, 0x4)
  | .step => none
  | .outRead _ => none
  | .srcWrite _ _ => none
  | .reset => none

/-- The row's pattern holds of the word w. -/
def Instr.matchesWord (i : Instr) (w : Nat) : Bool :=
  match i.tableRow with
  | some (mask, pattern) => decide (w &&& mask = pattern)
  | none => false

/-- The request made of a table word: rows of up to 4 bits (one byte) are selectors, wider ones host transactions. A row of no
bits (PRIM) and a number too wide for the format give no request (log 12). -/
def tableRequest (nbits w : Nat) : Option Request :=
  if nbits = 0 then none
  else if nbits ≤ 8 then
    if w < 2 ^ 4 then some (.sel (BitVec.ofNat 4 w)) else none
  else if w < 2 ^ 21 then some (.host (BitVec.ofNat 21 w)) else none

/-- The operation the decoder reads from a word numbered as spec/opcode_table.json numbers it. -/
def decodeTableWord (nbits w : Nat) : Option Instr :=
  match tableRequest nbits w with
  | some r =>
    match decode r with
    | .ok i => some i
    | .error _ => none
  | none => none

end Sys2Proof
end

