-- ==== Sys2Proof/Machine/State.lean ====
section
/-! DEFINITION. The state of the block as plain data (10_state.md), its value after reset (R26), and the reasons a step of the
model can stop. -/

namespace Sys2Proof.Machine

/-- PHASE (10_state.md R12). -/
inductive Phase where
  | idle
  | run
  | done
  | err
  deriving DecidableEq, Repr

/-- The two error kinds the block raises (60_exceptions.md R160). -/
inductive ErrorKind where
  | invalidConfiguration
  | dimensionMismatch
  deriving DecidableEq, Repr

/-- The value an operation hands to its caller: the read data of a transaction, the byte of an OutRead, or the result of a
datapath unit. It is the model's record of that value and no storage of the block (log 3). -/
inductive Reply where
  | none
  | rdata (v : RegWord)
  | outByte (v : Byte)
  | distance (d : BitVec 18)
  | code (c : BitVec 2)
  | pixel (p : Pixel)
  | luma (v : Byte)
  | bit (m : BitVec 1)
  | groupByte (v : Byte)
  | row (bytes : List Byte)
  deriving DecidableEq, Repr

/-- A byte memory: the bytes that were written, by offset, in rising order. An offset not listed holds no written byte. -/
abbrev Memory := List Host.Cell

@[ext]
structure State where
  /-- PHASE (R12) -/
  phase : Phase
  /-- ERRCODE (R14) -/
  errcode : BitVec 2
  /-- MODE (R15) -/
  mode : BitVec 2
  /-- PALSEL (R15) -/
  palsel : BitVec 2
  /-- CFG_W (R16) -/
  cfgW : RegWord
  /-- CFG_H (R16) -/
  cfgH : RegWord
  /-- IMG_W (R17) -/
  imgW : RegWord
  /-- IMG_H (R17) -/
  imgH : RegWord
  /-- POS_Y, the row of the scan position (R13) -/
  posY : BitVec 8
  /-- POS_G, the group of the scan position (R13) -/
  posG : BitVec 6
  /-- OUT_CNT (R20) -/
  outCnt : BitVec 13
  /-- SRC (R23) -/
  src : Memory
  /-- OUT (R23) -/
  out : Memory
  /-- the model's: HOST's pending requests and SEQ's turns, oldest first (log 1) -/
  script : List Request
  /-- the model's: the value the most recent value-returning operation returned (log 3) -/
  reply : Reply
  /-- the model's: the number of free values drawn so far (log 4) -/
  draws : Nat
  deriving DecidableEq, Repr

/-- The state right after power-up, which is a reset (10_state.md R26, 70_reset_and_hazards.md R185): nothing is listed in SRC
or OUT, whose bytes are then unspecified, and HOST has placed no request. -/
def State.reset : State where
  phase := .idle
  errcode := 0
  mode := 0
  palsel := 0
  cfgW := 256
  cfgH := 192
  imgW := 0
  imgH := 0
  posY := 0
  posG := 0
  outCnt := 0
  src := []
  out := []
  script := []
  reply := .none
  draws := 0

/-- Why the model's machine stops with a fault. -/
inductive Fault where
  /-- raised by SRCWRITE with an offset that SRC does not have; safe (log 9) -/
  | srcAddress
  /-- raised by OUTREAD with an offset that OUT does not have; safe (log 9) -/
  | outAddress
  /-- raised by STEP in a state with PHASE = RUN that has an illegal configuration, a position outside the image or a full OUT,
  which 10_state.md R27 excludes, so in no state a run reaches; safe (log 10) -/
  | inconsistentRun
  deriving DecidableEq, Repr

/-- Why the model gives a request no meaning. -/
inductive Refusal where
  /-- raised by an arm of exec whose operation has no meaning yet; safe -/
  | notModelled (mnemonic : String)
  /-- raised by the step when the request in front is a transaction or selector presented without its bits, which HOST has no way
  to do; no value of an operand raises it; safe (log 11) -/
  | undecodable (e : DecodeError)
  deriving DecidableEq, Repr

end Sys2Proof.Machine
end

