-- ==== Sys2Proof/Machine/Flags.lean ====
section
/-! DEFINITION. The block's only flags: the view of PHASE that STATUS gives (10_state.md R19), and the codes of ERRCODE. -/

namespace Sys2Proof.Machine

/-- The 2-bit value of PHASE (10_state.md R12). -/
def phaseCode (p : Phase) : BitVec 2 :=
  match p with
  | .idle => 0
  | .run => 1
  | .done => 2
  | .err => 3

/-- BUSY = (PHASE = RUN). -/
def busyFlag (p : Phase) : BitVec 1 := if p = .run then 1 else 0

/-- DONE = (PHASE = DONE). -/
def doneFlag (p : Phase) : BitVec 1 := if p = .done then 1 else 0

/-- ERR = (PHASE = ERR). -/
def errFlag (p : Phase) : BitVec 1 := if p = .err then 1 else 0

/-- STATUS: PHASE in bits 1:0, BUSY in bit 2, DONE in bit 3, ERR in bit 4, bits 15:5 zero (10_state.md R19). -/
def statusWord (p : Phase) : RegWord :=
  0#11 ++ errFlag p ++ doneFlag p ++ busyFlag p ++ phaseCode p

/-- The code of an error kind in ERRCODE (60_exceptions.md R160). -/
def errorCode (e : ErrorKind) : BitVec 2 :=
  match e with
  | .invalidConfiguration => 1
  | .dimensionMismatch => 2

end Sys2Proof.Machine
end

