-- ==== Sys2Proof/Machine/Params.lean ====
section
/-! DEFINITION. The values of the block's constants (00_scope.md R6, 10_state.md R22). -/

namespace Sys2Proof.Machine

/-- PAL_A: green, yellow, blue, red (10_state.md R22). -/
def palA : Palette := ⟨⟨0, 255, 0⟩, ⟨255, 255, 0⟩, ⟨0, 0, 255⟩, ⟨255, 0, 0⟩⟩

/-- PAL_B: white, cyan, magenta, orange (10_state.md R22). -/
def palB : Palette := ⟨⟨255, 255, 255⟩, ⟨0, 255, 255⟩, ⟨255, 0, 255⟩, ⟨255, 128, 0⟩⟩

/-- The constants of 00_scope.md R6 with the values the source fixes (log 14). -/
def params : Params where
  palA := palA
  palB := palB
  maxW := 256
  maxH := 192
  thresh := 127
  kr := 299
  kg := 587
  kb := 114
  kdiv := 1000

end Sys2Proof.Machine
end

