-- ==== Sys2Proof/Machine/Operands.lean ====
section
/-! DEFINITION. How the operands of an encoding operation are assembled (30_encoding.md R56): the operation the selector
registers choose, the pixel at a position of SRC, and the sizes of a run. -/

namespace Sys2Proof.Machine

/-- The byte memory m at offset a, if it was written. -/
def Memory.read? (m : Memory) (a : Nat) : Option Byte :=
  match m with
  | [] => none
  | (b, v) :: rest => if a = b then some v else Memory.read? rest a

/-- `MemRead(SRC, a, 1)` (20_memory.md R31): the byte HOST last wrote, or the free value of an offset never written (U5). -/
def srcByte (m : Memory) (a : Nat) : Byte :=
  (Memory.read? m a).getD (Config.srcUnwritten a)

/-- `Pix(y, x)` of an image of width w (20_memory.md R32). -/
def pix (m : Memory) (w y x : Nat) : Pixel where
  r := srcByte m ((y * w + x) * 3 + 0)
  g := srcByte m ((y * w + x) * 3 + 1)
  b := srcByte m ((y * w + x) * 3 + 2)

/-- An EncodeMode with the palette it matches against (10_state.md R15). -/
inductive EncOp where
  | fourColor (P : Palette)
  | monochrome
  deriving DecidableEq, Repr

/-- The operation a selector starts, `none` for the reserved ones (30_encoding.md R57). -/
def selectedOp (mode palsel : BitVec 2) : Option EncOp :=
  match mode.toNat with
  | 0 =>
    match palsel.toNat with
    | 0 => some (.fourColor params.palA)
    | 1 => some (.fourColor params.palB)
    | _ => none
  | 1 => some .monochrome
  | _ => none

/-- The operation the registers MODE and PALSEL select. -/
def State.op (s : State) : Option EncOp := selectedOp s.mode s.palsel

/-- `MergedWidth(W)` (42_pack4.md R85). -/
def mergedWidth (w : Nat) : Nat := w / 2

/-- `Stride4(W) = ceil(MergedWidth(W) / 4)` (42_pack4.md R85). -/
def stride4 (w : Nat) : Nat := (mergedWidth w + 3) / 4

/-- `Stride1(W) = ceil(W / 8)` (43_pack1.md R97). -/
def stride1 (w : Nat) : Nat := (w + 7) / 8

/-- `Stride` of a run (44_encoder.md R107). -/
def stride (op : EncOp) (w : Nat) : Nat :=
  match op with
  | .fourColor _ => stride4 w
  | .monochrome => stride1 w

/-- `Total` of a run (44_encoder.md R107). -/
def total (op : EncOp) (w h : Nat) : Nat := stride op w * h

/-- The sizes a START accepts for an operation (44_encoder.md R105): 1 to MAX_W by 1 to MAX_H, the width even in FourColor mode. -/
def sizesValid (op : EncOp) (w h : Nat) : Bool :=
  decide (1 ≤ w) && decide (w ≤ params.maxW) && decide (1 ≤ h) && decide (h ≤ params.maxH) &&
    match op with
    | .fourColor _ => decide (w % 2 = 0)
    | .monochrome => true

/-- The working width as a number. -/
abbrev State.w (s : State) : Nat := s.cfgW.toNat

/-- The working height as a number. -/
abbrev State.h (s : State) : Nat := s.cfgH.toNat

/-- `ConfigValid` of the state's registers (44_encoder.md R105). -/
def configValid (s : State) : Bool :=
  match s.op with
  | some op => sizesValid op s.w s.h
  | none => false

/-- `DimMatch` (44_encoder.md R106). -/
def dimMatch (s : State) : Bool :=
  decide (s.imgW = s.cfgW) && decide (s.imgH = s.cfgH)

end Sys2Proof.Machine
end

