-- ==== Sys2Proof/Machine/Ops.lean ====
section
/-! DEFINITION. The named operations over memory and registers that the meanings are made of, the entry of an error
(60_exceptions.md R167), and `Start()` (44_encoder.md R111). The spec gives no return from an error: ERR is left by a new START
or by reset only (60_exceptions.md R168). -/

namespace Sys2Proof.Machine

/-- Store byte v at offset a, keeping the offsets rising. -/
def Memory.write (m : Memory) (a : Nat) (v : Byte) : Memory :=
  match m with
  | [] => [(a, v)]
  | (b, u) :: rest =>
    if a < b then (a, v) :: (b, u) :: rest
    else if a = b then (a, v) :: rest
    else (b, u) :: Memory.write rest a v

/-- The canonical form of a memory of `size` bytes: offsets strictly rising, all below `size`. -/
def Memory.wf (size : Nat) (m : Memory) : Bool :=
  match m with
  | [] => true
  | (a, _) :: rest => decide (a < size) && rest.all (fun c => decide (a < c.1)) && Memory.wf size rest

/-- Hand a value to the caller (log 3). -/
def State.withReply (s : State) (r : Reply) : State := { s with reply := r }

/-- Count n free values as drawn (log 4). -/
def State.drew (s : State) (n : Nat) : State := { s with draws := s.draws + n }

/-- `rdata <- zext_16(x[REG])` (45_host_interface.md R121). -/
def State.returnRdata (s : State) (v : RegWord) : State := s.withReply (.rdata v)

/-- A configuration write (45_host_interface.md R122): the update u is done unless PHASE = RUN. -/
def State.configure (s : State) (u : State) : State := if s.phase = .run then s else u

/-- Set the selector registers MODE and PALSEL (30_encoding.md R57). -/
def State.select (s : State) (mode palsel : BitVec 2) : State := { s with mode := mode, palsel := palsel }

/-- `OUT_CNT <- 0; pos <- (0, 0)`: the OutputStream becomes empty (44_encoder.md R111). -/
def State.emptyStream (s : State) : State := { s with outCnt := 0, posY := 0, posG := 0 }

/-- `raise E` (60_exceptions.md R166, R167): PHASE and ERRCODE are written, and nothing else. -/
def State.raise (s : State) (e : ErrorKind) : State := { s with phase := .err, errcode := errorCode e }

/-- A START that passes both checks: `ERRCODE <- 0; PHASE <- RUN` (44_encoder.md R111). -/
def State.accept (s : State) : State := { s with phase := .run, errcode := 0 }

/-- `Start()` (44_encoder.md R111). -/
def start (s : State) : State :=
  if s.phase = .run then s
  else if configValid s = false then s.emptyStream.raise .invalidConfiguration
  else if dimMatch s = false then s.emptyStream.raise .dimensionMismatch
  else s.emptyStream.accept

/-- `MemWrite(OUT, OUT_CNT, 1, v); OUT_CNT <- OUT_CNT + 1` (20_memory.md R36, 44_encoder.md R112). -/
def State.appendByte (s : State) (v : Byte) : State :=
  { s with out := Memory.write s.out s.outCnt.toNat v, outCnt := s.outCnt + 1 }

/-- The advance of the scan position in rows of `stride` bytes (10_state.md R13). -/
def State.advance (s : State) (stride : Nat) : State :=
  if s.posG.toNat + 1 < stride then { s with posG := s.posG + 1 }
  else { s with posY := s.posY + 1, posG := 0 }

/-- `if pos = (CFG_H, 0): PHASE <- DONE` (44_encoder.md R112, R113). -/
def State.finishAtEnd (s : State) : State :=
  if s.posY.toNat = s.h ∧ s.posG = 0 then { s with phase := .done } else s

/-- Reset (70_reset_and_hazards.md R185): every register to the value of 10_state.md R26 and the bytes of OUT unspecified; SRC is
not touched, and neither are the model's own fields, which are HOST's (log 15). -/
def resetBlock (s : State) : State :=
  { State.reset with src := s.src, script := s.script, reply := s.reply, draws := s.draws }

end Sys2Proof.Machine
end

