-- ==== Sys2Proof/Machine/Quantizer.lean ====
section
/-! DEFINITION. The pure functions of the datapath: the nearest-colour matcher (40_nearest_color.md), the merge (41_merge.md),
the two packers (42_pack4.md, 43_pack1.md) and the encoder's function `Encode` (44_encoder.md R108). -/

namespace Sys2Proof.Machine

/-- `|a − b|²` of two channels, over the integers. -/
def squareDiff (a b : Byte) : Nat := (((a.toNat : Int) - (b.toNat : Int)) ^ 2).toNat

/-- `Dist(p, q)` (40_nearest_color.md R70). -/
def distOf (p q : Pixel) : Nat := squareDiff p.r q.r + squareDiff p.g q.g + squareDiff p.b q.b

/-- The scan of `Nearest` over the entries still to look at, with the running best index and its distance: strictly less
replaces (40_nearest_color.md R71). -/
def nearestScan (p : Pixel) (P : Palette) (best : BitVec 2) (bestd : Nat) (todo : List (BitVec 2)) : BitVec 2 :=
  match todo with
  | [] => best
  | i :: rest =>
    if distOf p (P.entry i) < bestd then nearestScan p P i (distOf p (P.entry i)) rest
    else nearestScan p P best bestd rest

/-- `Nearest(p, P)` (40_nearest_color.md R71, R72). -/
def nearestOf (p : Pixel) (P : Palette) : BitVec 2 :=
  nearestScan p P 0 (distOf p (P.entry 0)) [1, 2, 3]

/-- `(a + b) div 2` of a channel. -/
def mergeChannel (a b : Byte) : Byte := BitVec.ofNat 8 ((a.toNat + b.toNat) / 2)

/-- `Merge(a, b)` (41_merge.md R80). -/
def mergeOf (a b : Pixel) : Pixel where
  r := mergeChannel a.r b.r
  g := mergeChannel a.g b.g
  b := mergeChannel a.b b.b

/-- `Code4(y, j)` (42_pack4.md R86). -/
def code4Of (m : Memory) (P : Palette) (w y j : Nat) : BitVec 2 :=
  nearestOf (mergeOf (pix m w y (2 * j)) (pix m w y (2 * j + 1))) P

/-- What slot i of group g contributes to a FourColor byte: nothing if the slot is beyond the row (42_pack4.md R87, R88). -/
def slot4 (m : Memory) (P : Palette) (w y g i : Nat) : Byte :=
  if 4 * g + i < mergedWidth w then (code4Of m P w y (4 * g + i)).setWidth 8 <<< ((3 - i) * 2) else 0

/-- `Group4(y, g)` (42_pack4.md R87). -/
def group4Of (m : Memory) (P : Palette) (w y g : Nat) : Byte :=
  [0, 1, 2, 3].foldl (fun byte i => byte ||| slot4 m P w y g i) 0

/-- `Row4(y)` (42_pack4.md R89). -/
def row4Of (m : Memory) (P : Palette) (w y : Nat) : List Byte :=
  (List.range (stride4 w)).map (group4Of m P w y)

/-- `Luma(p)` as a number (43_pack1.md R95). -/
def lumaOf (p : Pixel) : Nat :=
  (params.kr * p.r.toNat + params.kg * p.g.toNat + params.kb * p.b.toNat) / params.kdiv

/-- `Bit1(p)` (43_pack1.md R96). -/
def bit1Of (p : Pixel) : BitVec 1 := if lumaOf p > params.thresh then 1 else 0

/-- What pixel k of group g contributes to a Monochrome byte: nothing if it is beyond the row (43_pack1.md R98, R99). -/
def slot1 (m : Memory) (w y g k : Nat) : Byte :=
  if 8 * g + k < w then (bit1Of (pix m w y (8 * g + k))).setWidth 8 <<< (7 - k) else 0

/-- `Group1(y, g)` (43_pack1.md R98). -/
def group1Of (m : Memory) (w y g : Nat) : Byte :=
  [0, 1, 2, 3, 4, 5, 6, 7].foldl (fun byte k => byte ||| slot1 m w y g k) 0

/-- `Row1(y)` (43_pack1.md R100). -/
def row1Of (m : Memory) (w y : Nat) : List Byte :=
  (List.range (stride1 w)).map (group1Of m w y)

/-- `GroupByte(y, g)` (44_encoder.md R109). -/
def groupByteOf (m : Memory) (op : EncOp) (w y g : Nat) : Byte :=
  match op with
  | .fourColor P => group4Of m P w y g
  | .monochrome => group1Of m w y g

/-- The bytes of one row: `Row4(y)` or `Row1(y)`. -/
def rowOf (m : Memory) (op : EncOp) (w y : Nat) : List Byte :=
  (List.range (stride op w)).map (groupByteOf m op w y)

/-- `Encode(S, mode, pal, W, H)` (44_encoder.md R108), with mode and pal as the operation they select. -/
def encodeImage (m : Memory) (op : EncOp) (w h : Nat) : List Byte :=
  (List.range h).flatMap (rowOf m op w)

end Sys2Proof.Machine
end

