-- ==== Sys2Proof/Machine/Sequencer.lean ====
section
/-! DEFINITION. SEQ's group step (44_encoder.md R112) and a whole run of group steps. -/

namespace Sys2Proof.Machine

/-- One group step in a run of the operation op: the byte of the scan position is appended, the position advances, and the step
that reaches (CFG_H, 0) ends the run (44_encoder.md R112, R113). -/
def groupStep (op : EncOp) (s : State) : State :=
  ((s.appendByte (groupByteOf s.src op s.w s.posY.toNat s.posG.toNat)).advance (stride op s.w)).finishAtEnd

/-- n group steps. -/
def groupSteps (op : EncOp) (n : Nat) (s : State) : State :=
  match n with
  | 0 => s
  | n + 1 => groupSteps op n (groupStep op s)

/-- What 10_state.md R27 says of a state with PHASE = RUN, as far as a group step needs it: the registers select op with legal
sizes, the scan position is inside the image, and OUT has room. -/
def runReady (s : State) : Option EncOp :=
  match s.op with
  | some op =>
    if sizesValid op s.w s.h && decide (s.posY.toNat < s.h) && decide (s.posG.toNat < stride op s.w) &&
        decide (s.outCnt.toNat < Config.outBytes) then some op else none
  | none => none

/-- `Step()`: enabled exactly when PHASE = RUN; in every other phase SEQ has no step and nothing changes (44_encoder.md R112). A RUN
state for which `runReady` finds no operation stops (log 10). -/
def seqStep (s : State) : Host.Outcome State Fault Refusal :=
  if s.phase = .run then
    match runReady s with
    | some op => .next (groupStep op s)
    | none => .fault .inconsistentRun
  else .next s

/-- All the group steps of a run that was just accepted. -/
def finishRun (s : State) : State :=
  match s.op with
  | some op => groupSteps op (total op s.w s.h) s
  | none => s

/-- A whole encoding operation of a selector (44_encoder.md R114 to R116, 60_exceptions.md R161): the selector is placed in MODE and
PALSEL, START is commanded, and an accepted run is taken to its end. In RUN it is ignored, as the writes and the START are
(log 7). -/
def runSelected (mode palsel : BitVec 2) (s : State) : State :=
  if s.phase = .run then s
  else
    if (start (s.select mode palsel)).phase = .run then finishRun (start (s.select mode palsel))
    else start (s.select mode palsel)

end Sys2Proof.Machine
end

