-- ==== Sys2Proof/Machine/HostReads.lean ====
section
/-! DEFINITION. The register reads (45_host_interface.md R121 to R147): the register's value, zero-extended, is returned; no state of the
block changes; allowed in every phase. -/

namespace Sys2Proof.Machine

/-- `RD.CTRL` (45_host_interface.md R123): CTRL has no storage and reads 0. -/
def execRdCtrl (s : State) : Host.Outcome State Fault Refusal := .next (s.returnRdata 0)

/-- `RD.STATUS` (45_host_interface.md R125). -/
def execRdStatus (s : State) : Host.Outcome State Fault Refusal := .next (s.returnRdata (statusWord s.phase))

/-- `RD.ERRCODE` (45_host_interface.md R127). -/
def execRdErrcode (s : State) : Host.Outcome State Fault Refusal := .next (s.returnRdata (s.errcode.setWidth 16))

/-- `RD.MODE` (45_host_interface.md R129). -/
def execRdMode (s : State) : Host.Outcome State Fault Refusal := .next (s.returnRdata (s.mode.setWidth 16))

/-- `RD.PALSEL` (45_host_interface.md R131). -/
def execRdPalsel (s : State) : Host.Outcome State Fault Refusal := .next (s.returnRdata (s.palsel.setWidth 16))

/-- `RD.CFG_W` (45_host_interface.md R133). -/
def execRdCfgW (s : State) : Host.Outcome State Fault Refusal := .next (s.returnRdata s.cfgW)

/-- `RD.CFG_H` (45_host_interface.md R135). -/
def execRdCfgH (s : State) : Host.Outcome State Fault Refusal := .next (s.returnRdata s.cfgH)

/-- `RD.IMG_W` (45_host_interface.md R137). -/
def execRdImgW (s : State) : Host.Outcome State Fault Refusal := .next (s.returnRdata s.imgW)

/-- `RD.IMG_H` (45_host_interface.md R139). -/
def execRdImgH (s : State) : Host.Outcome State Fault Refusal := .next (s.returnRdata s.imgH)

/-- `RD.POS_Y` (45_host_interface.md R141). -/
def execRdPosY (s : State) : Host.Outcome State Fault Refusal := .next (s.returnRdata (s.posY.setWidth 16))

/-- `RD.POS_G` (45_host_interface.md R143). -/
def execRdPosG (s : State) : Host.Outcome State Fault Refusal := .next (s.returnRdata (s.posG.setWidth 16))

/-- `RD.OUT_CNT` (45_host_interface.md R145). -/
def execRdOutCnt (s : State) : Host.Outcome State Fault Refusal := .next (s.returnRdata (s.outCnt.setWidth 16))

/-- `RD.RSVD` (45_host_interface.md R147): the reserved registers read 0. -/
def execRdRsvd (s : State) : Host.Outcome State Fault Refusal := .next (s.returnRdata 0)

end Sys2Proof.Machine
end

