-- ==== Sys2Proof/Machine/HostWrites.lean ====
section
/-! DEFINITION. The register writes and the START command (45_host_interface.md R120, R122, R124 to R148): a configuration write is
ignored in RUN, a write of a read-only or reserved register is ignored in every phase. -/

namespace Sys2Proof.Machine

/-- `START`: `WR.CTRL` with wdata[0] = 1 (45_host_interface.md R124). -/
def execStart (s : State) : Host.Outcome State Fault Refusal := .next (start s)

/-- `WR.CTRL` with wdata[0] = 0: nothing happens (45_host_interface.md R124). -/
def execWrCtrlNop (s : State) : Host.Outcome State Fault Refusal := .next s

/-- `WR.STATUS`: ignored in every phase (45_host_interface.md R126). -/
def execWrStatus (s : State) : Host.Outcome State Fault Refusal := .next s

/-- `WR.ERRCODE`: ignored in every phase (45_host_interface.md R128). -/
def execWrErrcode (s : State) : Host.Outcome State Fault Refusal := .next s

/-- `WR.POS_Y`: ignored in every phase (45_host_interface.md R142). -/
def execWrPosY (s : State) : Host.Outcome State Fault Refusal := .next s

/-- `WR.POS_G`: ignored in every phase (45_host_interface.md R144). -/
def execWrPosG (s : State) : Host.Outcome State Fault Refusal := .next s

/-- `WR.OUT_CNT`: ignored in every phase (45_host_interface.md R146). -/
def execWrOutCnt (s : State) : Host.Outcome State Fault Refusal := .next s

/-- `WR.RSVD`: ignored in every phase (45_host_interface.md R148). -/
def execWrRsvd (s : State) : Host.Outcome State Fault Refusal := .next s

/-- `WR.MODE`: `if PHASE ≠ RUN then MODE <- d` (45_host_interface.md R130). -/
def execWrMode (d : BitVec 2) (s : State) : Host.Outcome State Fault Refusal :=
  .next (s.configure { s with mode := d })

/-- `WR.PALSEL`: `if PHASE ≠ RUN then PALSEL <- d` (45_host_interface.md R132). -/
def execWrPalsel (d : BitVec 2) (s : State) : Host.Outcome State Fault Refusal :=
  .next (s.configure { s with palsel := d })

/-- `WR.CFG_W`: `if PHASE ≠ RUN then CFG_W <- d` (45_host_interface.md R134). -/
def execWrCfgW (d : RegWord) (s : State) : Host.Outcome State Fault Refusal :=
  .next (s.configure { s with cfgW := d })

/-- `WR.CFG_H`: `if PHASE ≠ RUN then CFG_H <- d` (45_host_interface.md R136). -/
def execWrCfgH (d : RegWord) (s : State) : Host.Outcome State Fault Refusal :=
  .next (s.configure { s with cfgH := d })

/-- `WR.IMG_W`: `if PHASE ≠ RUN then IMG_W <- d` (45_host_interface.md R138). -/
def execWrImgW (d : RegWord) (s : State) : Host.Outcome State Fault Refusal :=
  .next (s.configure { s with imgW := d })

/-- `WR.IMG_H`: `if PHASE ≠ RUN then IMG_H <- d` (45_host_interface.md R140). -/
def execWrImgH (d : RegWord) (s : State) : Host.Outcome State Fault Refusal :=
  .next (s.configure { s with imgH := d })

end Sys2Proof.Machine
end

