-- ==== Sys2Proof/Machine/Prims.lean ====
section
/-! DEFINITION. The primitives that are no register transaction (30_encoding.md R59): SEQ's step, HOST's OutRead, SrcWrite and RESET. -/

namespace Sys2Proof.Machine

/-- `STEP`: one group step of SEQ (44_encoder.md R112). -/
def execStep (s : State) : Host.Outcome State Fault Refusal := seqStep s

/-- The byte OutRead(k) returns and the number of free values it draws: the written byte below OUT_CNT, any value, fresh at each
read, at or above it (45_host_interface.md R149, U4). -/
def outReadValue (s : State) (k : Nat) : Byte × Nat :=
  if k < s.outCnt.toNat then
    match Memory.read? s.out k with
    | some v => (v, 0)
    | none => (Config.outUnspecified s.draws, 1)
  else (Config.outUnspecified s.draws, 1)

/-- `OutRead(k)` (45_host_interface.md R149); an offset OUT does not have faults (log 9). -/
def execOutRead (k : BitVec 13) (s : State) : Host.Outcome State Fault Refusal :=
  if k.toNat < Config.outBytes then
    .next ((s.withReply (.outByte (outReadValue s k.toNat).1)).drew (outReadValue s k.toNat).2)
  else .fault .outAddress

/-- `SrcWrite(a, v)`, allowed in every phase (20_memory.md R34); an offset SRC does not have faults (log 9). -/
def execSrcWrite (a : BitVec 18) (v : Byte) (s : State) : Host.Outcome State Fault Refusal :=
  if a.toNat < Config.srcBytes then .next { s with src := Memory.write s.src a.toNat v }
  else .fault .srcAddress

/-- `RESET` (45_host_interface.md R150, 70_reset_and_hazards.md R185). -/
def execReset (s : State) : Host.Outcome State Fault Refusal := .next (resetBlock s)

end Sys2Proof.Machine
end

