-- ==== Sys2Proof/Machine/Select.lean ====
section
/-! DEFINITION. The operations of the selector map (30_encoding.md R57). -/

namespace Sys2Proof.Machine

/-- `ENC4.A`: FourColor encoding with palette A, selector 0000 (44_encoder.md R114). -/
def execEnc4A (s : State) : Host.Outcome State Fault Refusal := .next (runSelected 0 0 s)

/-- `ENC4.B`: FourColor encoding with palette B, selector 0001 (44_encoder.md R115). -/
def execEnc4B (s : State) : Host.Outcome State Fault Refusal := .next (runSelected 0 1 s)

/-- Selector 001p, a reserved palette in FourColor mode: START raises InvalidConfiguration (60_exceptions.md R161). -/
def execSelRsvdPal (p : BitVec 1) (s : State) : Host.Outcome State Fault Refusal :=
  .next (runSelected 0 (1#1 ++ p) s)

/-- `ENC1`: Monochrome encoding, selector 01pp, PALSEL not read (44_encoder.md R116). -/
def execEnc1 (p : BitVec 2) (s : State) : Host.Outcome State Fault Refusal := .next (runSelected 1 p s)

/-- Selector 1ppp, a reserved mode: START raises InvalidConfiguration (60_exceptions.md R161). -/
def execSelRsvdMode (p : BitVec 3) (s : State) : Host.Outcome State Fault Refusal :=
  .next (runSelected (1#1 ++ p.extractLsb' 2 1) (p.extractLsb' 0 2) s)

end Sys2Proof.Machine
end

