-- ==== Sys2Proof/Machine/Units.lean ====
section
/-! DEFINITION. The datapath units (40_nearest_color.md, 41_merge.md, 42_pack4.md, 43_pack1.md). A unit is combinational: under the selector
pattern that makes it active it gives its result, and it changes no state of the block; under another selector it is not used
and nothing happens (log 8). -/

namespace Sys2Proof.Machine

/-- The palette of the FourColor units when the selector registers are 000p, so that they are active. -/
def activePalette (s : State) : Option Palette :=
  match s.op with
  | some (.fourColor P) => some P
  | some .monochrome => none
  | none => none

/-- The Monochrome units are active: the selector registers are 01pp. -/
def monoActive (s : State) : Bool :=
  match s.op with
  | some (.fourColor _) => false
  | some .monochrome => true
  | none => false

/-- A FourColor unit, with its result as a function of the palette. -/
def unit4 (s : State) (result : Palette → State) : Host.Outcome State Fault Refusal :=
  match activePalette s with
  | some P => .next (result P)
  | none => .next s

/-- A Monochrome unit. -/
def unit1 (s : State) (result : State) : Host.Outcome State Fault Refusal :=
  if monoActive s then .next result else .next s

/-- The sizes in CFG_W and CFG_H are legal and y is a row of the image, as CODE4 to ROW1 require of their operands. -/
def rowInImage (s : State) (y : BitVec 8) : Bool := configValid s && decide (y.toNat < s.h)

/-- n free bytes, beginning with draw number d. -/
def freeBytes (d n : Nat) : List Byte := (List.range n).map (fun i => Config.unitUnspecified (d + i))

/-- A unit's result where its operands are in range, else a free value (log 8). -/
def inRangeOr (inRange : Bool) (s : State) (result free : Reply) (n : Nat) : State :=
  if inRange then s.withReply result else (s.withReply free).drew n

/-- `DIST` (40_nearest_color.md R70). -/
def execDist (p q : Pixel) (s : State) : Host.Outcome State Fault Refusal :=
  unit4 s (fun _ => s.withReply (.distance (BitVec.ofNat 18 (distOf p q))))

/-- `NEAREST`, with the selected palette (40_nearest_color.md R71). -/
def execNearest (p : Pixel) (s : State) : Host.Outcome State Fault Refusal :=
  unit4 s (fun P => s.withReply (.code (nearestOf p P)))

/-- `MERGE` (41_merge.md R80). -/
def execMerge (a b : Pixel) (s : State) : Host.Outcome State Fault Refusal :=
  unit4 s (fun _ => s.withReply (.pixel (mergeOf a b)))

/-- `CODE4`, defined for j < MergedWidth(W) (42_pack4.md R86). -/
def execCode4 (y : BitVec 8) (j : BitVec 7) (s : State) : Host.Outcome State Fault Refusal :=
  unit4 s (fun P => inRangeOr (rowInImage s y && decide (j.toNat < mergedWidth s.w)) s
    (.code (code4Of s.src P s.w y.toNat j.toNat)) (.code (Config.codeUnspecified s.draws)) 1)

/-- `GROUP4`, defined for g < Stride4(W) (42_pack4.md R87, R88). -/
def execGroup4 (y : BitVec 8) (g : BitVec 6) (s : State) : Host.Outcome State Fault Refusal :=
  unit4 s (fun P => inRangeOr (rowInImage s y && decide (g.toNat < stride4 s.w)) s
    (.groupByte (group4Of s.src P s.w y.toNat g.toNat)) (.groupByte (Config.unitUnspecified s.draws)) 1)

/-- `ROW4`, defined for the rows of the image (42_pack4.md R89). -/
def execRow4 (y : BitVec 8) (s : State) : Host.Outcome State Fault Refusal :=
  unit4 s (fun P => inRangeOr (rowInImage s y) s
    (.row (row4Of s.src P s.w y.toNat)) (.row (freeBytes s.draws (stride4 s.w))) (stride4 s.w))

/-- `LUMA` (43_pack1.md R95). -/
def execLuma (p : Pixel) (s : State) : Host.Outcome State Fault Refusal :=
  unit1 s (s.withReply (.luma (BitVec.ofNat 8 (lumaOf p))))

/-- `THRESH` (43_pack1.md R96). -/
def execThresh (p : Pixel) (s : State) : Host.Outcome State Fault Refusal :=
  unit1 s (s.withReply (.bit (bit1Of p)))

/-- `GROUP1`, defined for g < Stride1(W) (43_pack1.md R98, R99). -/
def execGroup1 (y : BitVec 8) (g : BitVec 6) (s : State) : Host.Outcome State Fault Refusal :=
  unit1 s (inRangeOr (rowInImage s y && decide (g.toNat < stride1 s.w)) s
    (.groupByte (group1Of s.src s.w y.toNat g.toNat)) (.groupByte (Config.unitUnspecified s.draws)) 1)

/-- `ROW1`, defined for the rows of the image (43_pack1.md R100). -/
def execRow1 (y : BitVec 8) (s : State) : Host.Outcome State Fault Refusal :=
  unit1 s (inRangeOr (rowInImage s y) s
    (.row (row1Of s.src s.w y.toNat)) (.row (freeBytes s.draws (stride1 s.w))) (stride1 s.w))

end Sys2Proof.Machine
end

