-- ==== Sys2Proof/Machine/Dispatch.lean ====
section
/-! DEFINITION. One arm for each row of spec/opcode_table.json: a direct call of its meaning. -/

namespace Sys2Proof.Machine

def exec (i : Instr) (s : State) : Host.Outcome State Fault Refusal :=
  match i with
  | .rdCtrl => Sys2Proof.Machine.execRdCtrl s
  | .start => Sys2Proof.Machine.execStart s
  | .wrCtrlNop => Sys2Proof.Machine.execWrCtrlNop s
  | .rdStatus => Sys2Proof.Machine.execRdStatus s
  | .wrStatus => Sys2Proof.Machine.execWrStatus s
  | .rdErrcode => Sys2Proof.Machine.execRdErrcode s
  | .wrErrcode => Sys2Proof.Machine.execWrErrcode s
  | .rdMode => Sys2Proof.Machine.execRdMode s
  | .wrMode d => Sys2Proof.Machine.execWrMode d s
  | .rdPalsel => Sys2Proof.Machine.execRdPalsel s
  | .wrPalsel d => Sys2Proof.Machine.execWrPalsel d s
  | .rdCfgW => Sys2Proof.Machine.execRdCfgW s
  | .wrCfgW d => Sys2Proof.Machine.execWrCfgW d s
  | .rdCfgH => Sys2Proof.Machine.execRdCfgH s
  | .wrCfgH d => Sys2Proof.Machine.execWrCfgH d s
  | .rdImgW => Sys2Proof.Machine.execRdImgW s
  | .wrImgW d => Sys2Proof.Machine.execWrImgW d s
  | .rdImgH => Sys2Proof.Machine.execRdImgH s
  | .wrImgH d => Sys2Proof.Machine.execWrImgH d s
  | .rdPosY => Sys2Proof.Machine.execRdPosY s
  | .wrPosY => Sys2Proof.Machine.execWrPosY s
  | .rdPosG => Sys2Proof.Machine.execRdPosG s
  | .wrPosG => Sys2Proof.Machine.execWrPosG s
  | .rdOutCnt => Sys2Proof.Machine.execRdOutCnt s
  | .wrOutCnt => Sys2Proof.Machine.execWrOutCnt s
  | .rdRsvd => Sys2Proof.Machine.execRdRsvd s
  | .wrRsvd => Sys2Proof.Machine.execWrRsvd s
  | .enc4A => Sys2Proof.Machine.execEnc4A s
  | .enc4B => Sys2Proof.Machine.execEnc4B s
  | .selRsvdPal p => Sys2Proof.Machine.execSelRsvdPal p s
  | .enc1 p => Sys2Proof.Machine.execEnc1 p s
  | .selRsvdMode p => Sys2Proof.Machine.execSelRsvdMode p s
  | .dist p q => Sys2Proof.Machine.execDist p q s
  | .nearest p => Sys2Proof.Machine.execNearest p s
  | .merge a b => Sys2Proof.Machine.execMerge a b s
  | .code4 y j => Sys2Proof.Machine.execCode4 y j s
  | .group4 y g => Sys2Proof.Machine.execGroup4 y g s
  | .row4 y => Sys2Proof.Machine.execRow4 y s
  | .luma p => Sys2Proof.Machine.execLuma p s
  | .thresh p => Sys2Proof.Machine.execThresh p s
  | .group1 y g => Sys2Proof.Machine.execGroup1 y g s
  | .row1 y => Sys2Proof.Machine.execRow1 y s
  | .step => Sys2Proof.Machine.execStep s
  | .outRead k => Sys2Proof.Machine.execOutRead k s
  | .srcWrite a v => Sys2Proof.Machine.execSrcWrite a v s
  | .reset => Sys2Proof.Machine.execReset s

end Sys2Proof.Machine
end

