-- ==== Sys2Proof/Machine/Step.lean ====
section
/-! DEFINITION. One step of the block with its two agents (10_state.md R10): the request in front of `script` is taken, or, when
HOST has placed none, SEQ takes its enabled step. -/

namespace Sys2Proof.Machine

/-- The step. With a request in front, the operation it decodes to is run with the request taken out of `script`; a request that
is no operation is refused. With none, SEQ steps if PHASE = RUN (44_encoder.md R112, R113), and in every other phase the block is
quiescent (44_encoder.md R113, 70_reset_and_hazards.md R185). -/
def step (s : State) : Host.Outcome State Fault Refusal :=
  match s.script with
  | [] => if s.phase = .run then exec .step s else .next s
  | r :: rest =>
    match decode r with
    | .ok i => exec i { s with script := rest }
    | .error e => .refused (.undecodable e)

/-- s with the operation of a table word placed in front of `script`, so that the next step takes it (log 12). A number that is no
word of the format places nothing. -/
def State.withFetchWord (s : State) (nbits w : Nat) : State :=
  match tableRequest nbits w with
  | some r => { s with script := r :: s.script }
  | none => s

end Sys2Proof.Machine
end

