-- ==== Sys2Proof/Safety.lean ====
section
/-! DEFINITION. What counts as a sound state of the block (10_state.md R27), the end and the result of a run
(70_reset_and_hazards.md R195), and the vocabulary the statements are written in. -/

namespace Sys2Proof.Machine

/-- `ConfigValid` as 44_encoder.md R105 writes it, over the values of MODE, PALSEL, CFG_W and CFG_H. -/
def ConfigLegal (mode palsel : BitVec 2) (w h : Nat) : Prop :=
  (mode = 0 ∨ mode = 1) ∧ 1 ≤ w ∧ w ≤ 256 ∧ 1 ≤ h ∧ h ≤ 192 ∧
    (mode = 1 ∨ ((palsel = 0 ∨ palsel = 1) ∧ w % 2 = 0))

/-- `Stride(MODE, W)` as 42_pack4.md R85, 43_pack1.md R97 and 44_encoder.md R107 write it, for MODE 0 or 1. -/
def specStride (mode : BitVec 2) (w : Nat) : Nat :=
  if mode = 1 then (w + 7) / 8 else (w / 2 + 3) / 4

/-- The registers select FourColor encoding with the palette P (30_encoding.md R57): selector 0000 or 0001. -/
def SelectsFourColor (s : State) (P : Palette) : Prop :=
  s.mode = 0 ∧ ((s.palsel = 0 ∧ P = palA) ∨ (s.palsel = 1 ∧ P = palB))

/-- The registers select Monochrome encoding: selector 01pp. -/
def SelectsMonochrome (s : State) : Prop := s.mode = 1

/-- The selector registers choose the operation op (30_encoding.md R57). -/
def Selects (mode palsel : BitVec 2) (op : EncOp) : Prop :=
  (mode = 0 ∧ palsel = 0 ∧ op = .fourColor palA) ∨ (mode = 0 ∧ palsel = 1 ∧ op = .fourColor palB) ∨
    (mode = 1 ∧ op = .monochrome)

/-- A state in the middle of a run, as 10_state.md R27 (1), (2) and R13 describe it. -/
structure InRun (s : State) : Prop where
  phase : s.phase = .run
  config : ConfigLegal s.mode s.palsel s.cfgW.toNat s.cfgH.toNat
  dims : s.imgW = s.cfgW ∧ s.imgH = s.cfgH
  row : s.posY.toNat < s.cfgH.toNat
  group : s.posG.toNat < specStride s.mode s.cfgW.toNat
  count : s.outCnt.toNat = s.posY.toNat * specStride s.mode s.cfgW.toNat + s.posG.toNat

/-- The invariants of 10_state.md R27 and R13, with the canonical form of the two memories. -/
structure Inv (s : State) : Prop where
  /-- SRC is in canonical form, inside its 147456 bytes -/
  srcWf : Memory.wf Config.srcBytes s.src = true
  /-- OUT is in canonical form, inside its 6144 bytes -/
  outWf : Memory.wf Config.outBytes s.out = true
  /-- R27 (1), (2) -/
  inRun : s.phase = .run → InRun s
  /-- R27 (3): the sizes of the finished run, which HOST may have overwritten in the registers -/
  inDone : s.phase = .done → ∃ mode palsel w h, ConfigLegal mode palsel w h ∧
    s.outCnt.toNat = specStride mode w * h ∧ s.posY.toNat = h ∧ s.posG = 0
  /-- R27 (4) -/
  quiet : s.phase = .idle ∨ s.phase = .err → s.outCnt = 0 ∧ s.posY = 0 ∧ s.posG = 0
  /-- R27 (5) -/
  errIff : s.errcode ≠ 0 ↔ s.phase = .err
  /-- R14: code 3 is never produced -/
  noCode3 : s.errcode ≠ 3
  /-- R27 (6): every byte below OUT_CNT was written -/
  written : ∀ k, k < s.outCnt.toNat → ∃ v, Memory.read? s.out k = some v

/-- The OutputStream so far: the bytes of OUT below OUT_CNT in order (20_memory.md R35, R37); `none` stands for a byte that was
not written, which a state that satisfies `Inv` does not have. -/
def streamOf (s : State) : List (Option Byte) := (List.range s.outCnt.toNat).map (Memory.read? s.out)

/-- What HOST has of a run that ended (70_reset_and_hazards.md R195). -/
inductive RunResult where
  | stream (bytes : List (Option Byte))
  | failure (code : BitVec 2) (expectedW expectedH actualW actualH : RegWord)
  deriving DecidableEq, Repr

/-- The result of a run that ended, which is when PHASE is DONE or ERR; none before it ends (70_reset_and_hazards.md R195). -/
def runResult (s : State) : Option RunResult :=
  match s.phase with
  | .idle => none
  | .run => none
  | .done => some (.stream (streamOf s))
  | .err => some (.failure s.errcode s.cfgW s.cfgH s.imgW s.imgH)

/-- The operations that only return a value: the register reads, OutRead, and the datapath units. -/
def isRead : Instr → Bool
  | .rdCtrl => true
  | .start => false
  | .wrCtrlNop => false
  | .rdStatus => true
  | .wrStatus => false
  | .rdErrcode => true
  | .wrErrcode => false
  | .rdMode => true
  | .wrMode _ => false
  | .rdPalsel => true
  | .wrPalsel _ => false
  | .rdCfgW => true
  | .wrCfgW _ => false
  | .rdCfgH => true
  | .wrCfgH _ => false
  | .rdImgW => true
  | .wrImgW _ => false
  | .rdImgH => true
  | .wrImgH _ => false
  | .rdPosY => true
  | .wrPosY => false
  | .rdPosG => true
  | .wrPosG => false
  | .rdOutCnt => true
  | .wrOutCnt => false
  | .rdRsvd => true
  | .wrRsvd => false
  | .enc4A => false
  | .enc4B => false
  | .selRsvdPal _ => false
  | .enc1 _ => false
  | .selRsvdMode _ => false
  | .dist _ _ => true
  | .nearest _ => true
  | .merge _ _ => true
  | .code4 _ _ => true
  | .group4 _ _ => true
  | .row4 _ => true
  | .luma _ => true
  | .thresh _ => true
  | .group1 _ _ => true
  | .row1 _ => true
  | .step => false
  | .outRead _ => true
  | .srcWrite _ _ => false
  | .reset => false

/-- The operations that contain a START: START itself and the operations of the selector map. -/
def isStart (i : Instr) : Bool := decide (i = .start) || decide (i.format = .sel)

/-- Run a list of operations one after another, stopping at the first that does not answer a next state. -/
def execAll (is : List Instr) (s : State) : Host.Outcome State Fault Refusal :=
  match is with
  | [] => .next s
  | i :: rest =>
    match exec i s with
    | .next t => execAll rest t
    | .fault r => .fault r
    | .refused r => .refused r

/-- i reads the register regno, whatever the write data (45_host_interface.md R121): every transaction (0, regno, wdata) decodes to
i, and i returns val and changes nothing else, in every state. -/
def ReadsRegister (i : Instr) (regno : BitVec 4) (val : State → RegWord) : Prop :=
  (∀ wdata, decode (.host (hostWord 0 regno wdata)) = .ok i) ∧
    ∀ s, exec i s = .next { s with reply := .rdata (val s) }

/-- i is the write of the register regno and is ignored in every phase: every transaction (1, regno, wdata) decodes to i, and i
changes nothing, in every state. -/
def IgnoresWrite (i : Instr) (regno : BitVec 4) : Prop :=
  (∀ wdata, decode (.host (hostWord 1 regno wdata)) = .ok i) ∧ ∀ s, exec i s = .next s

/-- The transaction (1, regno, wdata) is a configuration write (45_host_interface.md R122): it decodes to an operation i wdata that
does the update outside RUN and is ignored in RUN. -/
def WritesRegister (i : RegWord → Instr) (regno : BitVec 4) (update : RegWord → State → State) : Prop :=
  ∀ wdata, decode (.host (hostWord 1 regno wdata)) = .ok (i wdata) ∧
    (∀ s, s.phase ≠ .run → exec (i wdata) s = .next (update wdata s)) ∧
    ∀ s, s.phase = .run → exec (i wdata) s = .next s

/-- i is the encoding operation of the selector (mode, palsel) (30_encoding.md R57). -/
def EncodesWith (i : Instr) (mode palsel : BitVec 2) : Prop :=
  (i = .enc4A ∧ mode = 0 ∧ palsel = 0) ∨ (i = .enc4B ∧ mode = 0 ∧ palsel = 1) ∨ (i = .enc1 palsel ∧ mode = 1)

/-- Two memories hold the same written bytes at the offsets below n. -/
def AgreeBelow (n : Nat) (m m' : Memory) : Prop := ∀ a, a < n → Memory.read? m a = Memory.read? m' a

end Sys2Proof.Machine
end

