-- ==== Sys2Proof/Certificates/Slice0/Obligations.lean ====
section
/-! DEFINITION. The statements for the provers, each from a rule of spec/ named in its docstring. -/

open Sys2Proof Sys2Proof.Machine

-- Encodings.

/-- 30_encoding.md R57 to R59 (a number of 24 bits is a host word and one of 8 bits a selector, and a number beyond the format is no
operation, log 12): eleven host words and five selectors, written out from the patterns and from 95_test_vectors.md V7.2 and V7.3,
decode to the operations they stand for, and the first number beyond each format decodes to none. -/
def Obligations.SpecWordsDecode : Prop :=
  decodeTableWord 24 0x000000 = some .rdCtrl ∧ decodeTableWord 24 0x10FFFF = some .start ∧
    decodeTableWord 24 0x10FFFE = some .wrCtrlNop ∧ decodeTableWord 24 0x03ABCD = some .rdMode ∧
    decodeTableWord 24 0x13FFFF = some (.wrMode 3) ∧ decodeTableWord 24 0x130004 = some (.wrMode 0) ∧
    decodeTableWord 24 0x14FFFE = some (.wrPalsel 2) ∧ decodeTableWord 24 0x15000A = some (.wrCfgW 10) ∧
    decodeTableWord 24 0x1800C0 = some (.wrImgH 192) ∧ decodeTableWord 24 0x0F0000 = some .rdRsvd ∧
    decodeTableWord 24 0x1C1234 = some .wrRsvd ∧ decodeTableWord 24 0x200000 = none ∧
    decodeTableWord 8 0x0 = some .enc4A ∧ decodeTableWord 8 0x1 = some .enc4B ∧
    decodeTableWord 8 0x3 = some (.selRsvdPal 1) ∧ decodeTableWord 8 0x6 = some (.enc1 2) ∧
    decodeTableWord 8 0xD = some (.selRsvdMode 5) ∧ decodeTableWord 8 0x10 = none

/-- 30_encoding.md R57 to R59 and R50: decoding the encoding of an operation gives it back, with every operand at every value, for all
46 rows. -/
def Obligations.DecodeInvertsEncode : Prop :=
  ∀ i : Instr, decode (encode i) = .ok i

/-- 30_encoding.md R59: every one of the 2^21 words decodes, to a HOST row whose pattern it matches, and it matches no other
HOST row's pattern. -/
def Obligations.EveryHostWordIsOneRow : Prop :=
  ∀ t : BitVec 21, ∃ i, decode (.host t) = .ok i ∧ i.format = .host ∧ i.matchesWord t.toNat = true ∧
    ∀ j : Instr, j.format = .host → j.matchesWord t.toNat = true → j.tableRow = i.tableRow

/-- 30_encoding.md R57: every selector decodes, to a SEL row whose pattern it matches, and that row's operation is the one R57
gives for its MODE and PALSEL. -/
def Obligations.EverySelectorIsOneRow : Prop :=
  ∀ mode palsel : BitVec 2, ∃ i, decode (.sel (selWord mode palsel)) = .ok i ∧ i.format = .sel ∧
    i.matchesWord (selWord mode palsel).toNat = true ∧
    (i = .enc4A ↔ mode = 0 ∧ palsel = 0) ∧ (i = .enc4B ↔ mode = 0 ∧ palsel = 1) ∧
    (i = .enc1 palsel ↔ mode = 1)

/-- 30_encoding.md R59, 45_host_interface.md R124: a transaction with we = 1 is decoded from regno, and of CTRL from wdata[0] too:
the bits the patterns mark d are the operand, the bits they mark ignored are not. -/
def Obligations.WriteDataBitsAreOperands : Prop :=
  ∀ w : RegWord,
    decode (.host (hostWord 1 0 w)) = .ok (if w.getLsbD 0 then .start else .wrCtrlNop) ∧
    decode (.host (hostWord 1 3 w)) = .ok (.wrMode (w.extractLsb' 0 2)) ∧
    decode (.host (hostWord 1 4 w)) = .ok (.wrPalsel (w.extractLsb' 0 2)) ∧
    decode (.host (hostWord 1 5 w)) = .ok (.wrCfgW w) ∧ decode (.host (hostWord 1 6 w)) = .ok (.wrCfgH w) ∧
    decode (.host (hostWord 1 7 w)) = .ok (.wrImgW w) ∧ decode (.host (hostWord 1 8 w)) = .ok (.wrImgH w)

-- The step.

/-- 10_state.md R10, 45_host_interface.md R120, 44_encoder.md R112, R113 (the queue of requests is the model's, logs 1 and 2): the
step runs the operation that the request in front decodes to, with the request taken; without a request SEQ takes its step in RUN
and nothing happens in another phase; a request that is no operation is refused. -/
def Obligations.StepRunsDecodedRequest : Prop :=
  ∀ s : State,
    (∀ r rest i, s.script = r :: rest → decode r = .ok i → step s = exec i { s with script := rest }) ∧
    (∀ r rest e, s.script = r :: rest → decode r = .error e → step s = .refused (.undecodable e)) ∧
    (s.script = [] → s.phase = .run → step s = exec .step s) ∧
    (s.script = [] → s.phase ≠ .run → step s = .next s)

/-- Log 12: a table word placed in front of the requests is the operation the next step runs, on the state it was placed in. -/
def Obligations.PlacedTableWordRunsNext : Prop :=
  ∀ (s : State) (nbits w : Nat) (i : Instr), decodeTableWord nbits w = some i →
    step (s.withFetchWord nbits w) = exec i s

-- The register reads.

/-- 45_host_interface.md R129, R131, R133, R135, R137, R139: the reads of the six configuration registers. -/
def Obligations.ConfigRegisterReads : Prop :=
  ReadsRegister .rdMode 3 (fun s => s.mode.setWidth 16) ∧ ReadsRegister .rdPalsel 4 (fun s => s.palsel.setWidth 16) ∧
    ReadsRegister .rdCfgW 5 (fun s => s.cfgW) ∧ ReadsRegister .rdCfgH 6 (fun s => s.cfgH) ∧
    ReadsRegister .rdImgW 7 (fun s => s.imgW) ∧ ReadsRegister .rdImgH 8 (fun s => s.imgH)

/-- 45_host_interface.md R127, R141, R143, R145: the reads of the error code, the scan position and the count. -/
def Obligations.ProgressRegisterReads : Prop :=
  ReadsRegister .rdErrcode 2 (fun s => s.errcode.setWidth 16) ∧ ReadsRegister .rdPosY 9 (fun s => s.posY.setWidth 16) ∧
    ReadsRegister .rdPosG 10 (fun s => s.posG.setWidth 16) ∧
    ReadsRegister .rdOutCnt 11 (fun s => s.outCnt.setWidth 16)

/-- 45_host_interface.md R125: STATUS reads 0x0000 in IDLE, 0x0005 in RUN, 0x000A in DONE, 0x0013 in ERR, and the read clears
nothing. -/
def Obligations.StatusReadsPhase : Prop :=
  ReadsRegister .rdStatus 1 (fun s =>
    match s.phase with
    | .idle => 0x0000
    | .run => 0x0005
    | .done => 0x000A
    | .err => 0x0013)

/-- 45_host_interface.md R123, R147: CTRL and the reserved registers 12 to 15 read 0. -/
def Obligations.CtrlAndReservedReadZero : Prop :=
  ReadsRegister .rdCtrl 0 (fun _ => 0) ∧ ReadsRegister .rdRsvd 12 (fun _ => 0) ∧ ReadsRegister .rdRsvd 13 (fun _ => 0) ∧
    ReadsRegister .rdRsvd 14 (fun _ => 0) ∧ ReadsRegister .rdRsvd 15 (fun _ => 0)

-- The register writes.

/-- 45_host_interface.md R126, R142, R144, R146, R148 (and R124, R128): the writes of read-only and reserved registers, and of
CTRL with wdata[0] = 0, change nothing in any phase. -/
def Obligations.ReadOnlyWritesIgnored : Prop :=
  IgnoresWrite .wrStatus 1 ∧ IgnoresWrite .wrErrcode 2 ∧ IgnoresWrite .wrPosY 9 ∧ IgnoresWrite .wrPosG 10 ∧
    IgnoresWrite .wrOutCnt 11 ∧ IgnoresWrite .wrRsvd 12 ∧ IgnoresWrite .wrRsvd 13 ∧ IgnoresWrite .wrRsvd 14 ∧
    IgnoresWrite .wrRsvd 15 ∧ ∀ s, exec .wrCtrlNop s = .next s

/-- 45_host_interface.md R122 (with R130, R132, R134, R136, R138, R140): a configuration write stores the write data, narrowed to the
register's width, unless PHASE = RUN, changes only its register, and checks nothing. -/
def Obligations.ConfigWritesStoreOutsideRun : Prop :=
  WritesRegister (fun w => .wrMode (w.extractLsb' 0 2)) 3 (fun w s => { s with mode := w.extractLsb' 0 2 }) ∧
    WritesRegister (fun w => .wrPalsel (w.extractLsb' 0 2)) 4 (fun w s => { s with palsel := w.extractLsb' 0 2 }) ∧
    WritesRegister .wrCfgW 5 (fun w s => { s with cfgW := w }) ∧
    WritesRegister .wrCfgH 6 (fun w s => { s with cfgH := w }) ∧
    WritesRegister .wrImgW 7 (fun w s => { s with imgW := w }) ∧
    WritesRegister .wrImgH 8 (fun w s => { s with imgH := w })

-- START.

/-- 44_encoder.md R111 with R105, R106 and 60_exceptions.md R161, R162, R165, R167: START is ignored in RUN; else it empties the
stream and raises InvalidConfiguration if the configuration is illegal, else DimensionMismatchError if the sizes differ, else
enters RUN. -/
def Obligations.StartJudgesConfigurationThenSizes : Prop :=
  ∀ s : State,
    (s.phase = .run → exec .start s = .next s) ∧
    (s.phase ≠ .run → ¬ ConfigLegal s.mode s.palsel s.cfgW.toNat s.cfgH.toNat →
      exec .start s = .next { s with phase := .err, errcode := 1, outCnt := 0, posY := 0, posG := 0 }) ∧
    (s.phase ≠ .run → ConfigLegal s.mode s.palsel s.cfgW.toNat s.cfgH.toNat →
      ¬ (s.imgW = s.cfgW ∧ s.imgH = s.cfgH) →
      exec .start s = .next { s with phase := .err, errcode := 2, outCnt := 0, posY := 0, posG := 0 }) ∧
    (s.phase ≠ .run → ConfigLegal s.mode s.palsel s.cfgW.toNat s.cfgH.toNat →
      s.imgW = s.cfgW → s.imgH = s.cfgH →
      exec .start s = .next { s with phase := .run, errcode := 0, outCnt := 0, posY := 0, posG := 0 })

/-- 44_encoder.md R107: for the operation that the selector registers choose, the machine's size check is ConfigValid, its stride and
total are Stride and Total as the rule writes them, and for sizes it accepts the stride is 1 to 32 and the total 1 to 6144. -/
def Obligations.RunSizesBounded : Prop :=
  ∀ (mode palsel : BitVec 2) (op : EncOp) (w h : Nat), Selects mode palsel op →
    (sizesValid op w h = true ↔ ConfigLegal mode palsel w h) ∧
    stride op w = specStride mode w ∧ total op w h = specStride mode w * h ∧
    (sizesValid op w h = true →
      1 ≤ stride op w ∧ stride op w ≤ 32 ∧ 1 ≤ total op w h ∧ total op w h ≤ 6144)

-- The group step.

/-- 44_encoder.md R112: in a run the step appends GroupByte of the scan position at offset OUT_CNT, counts it, advances the
position, ends the run exactly when the position becomes (CFG_H, 0), and changes nothing else; in every other phase SEQ has no
step, so without a request of HOST nothing changes. -/
def Obligations.GroupStepAppendsOneByte : Prop :=
  (∀ (s : State) (op : EncOp), InRun s → Selects s.mode s.palsel op →
    ∃ t, exec .step s = .next t ∧
      t = { s with out := t.out, outCnt := t.outCnt, posY := t.posY, posG := t.posG, phase := t.phase } ∧
      (∀ a, Memory.read? t.out a =
        if a = s.outCnt.toNat then some (groupByteOf s.src op s.cfgW.toNat s.posY.toNat s.posG.toNat)
        else Memory.read? s.out a) ∧
      t.outCnt.toNat = s.outCnt.toNat + 1 ∧
      (t.posY.toNat, t.posG.toNat) =
        (if s.posG.toNat + 1 < specStride s.mode s.cfgW.toNat then (s.posY.toNat, s.posG.toNat + 1)
         else (s.posY.toNat + 1, 0)) ∧
      t.phase = if (t.posY.toNat, t.posG.toNat) = (s.cfgH.toNat, 0) then .done else .run) ∧
  ∀ s : State, s.phase ≠ .run → s.script = [] → step s = .next s

/-- 44_encoder.md R112, R113: outside RUN SEQ has no step; the model's STEP there changes nothing (log 2). -/
def Obligations.NoGroupStepOutsideRun : Prop :=
  ∀ s : State, s.phase ≠ .run → exec .step s = .next s

-- The primitives of HOST.

/-- 45_host_interface.md R149 and 93_implementation_defined.md U4 (the free value is the model's form of "any value", logs 4 and 6):
below OUT_CNT OutRead returns the byte of the stream and changes no state; at or above it, a fresh free value. -/
def Obligations.OutReadReturnsStreamByte : Prop :=
  ∀ (s : State) (k : BitVec 13), k.toNat < 6144 →
    (∀ v, k.toNat < s.outCnt.toNat → Memory.read? s.out k.toNat = some v →
      exec (.outRead k) s = .next { s with reply := .outByte v }) ∧
    (s.outCnt.toNat ≤ k.toNat →
      exec (.outRead k) s =
        .next { s with reply := .outByte (Config.outUnspecified s.draws), draws := s.draws + 1 })

/-- 20_memory.md R31, R34, 70_reset_and_hazards.md R189: SrcWrite is done in every phase, a read of SRC then gives the byte written
there and what it gave before everywhere else, and nothing else changes. -/
def Obligations.SrcWriteThenRead : Prop :=
  ∀ (s : State) (a : BitVec 18) (v : Byte), a.toNat < 147456 →
    ∃ t, exec (.srcWrite a v) s = .next t ∧ t = { s with src := t.src } ∧
      ∀ b, srcByte t.src b = if b = a.toNat then v else srcByte s.src b

/-- 20_memory.md R30 (the faults are the model's, logs 9 and 10): an offset that a space does not have faults, and in RUN a STEP faults
exactly when the configuration is illegal, the position is outside the image or OUT is full; in every other RUN state, the ones of a
run among them, it answers a next state. -/
def Obligations.FaultsOutsideTheSpaces : Prop :=
  (∀ (s : State) (k : BitVec 13), 6144 ≤ k.toNat → exec (.outRead k) s = .fault .outAddress) ∧
    (∀ (s : State) (a : BitVec 18) (v : Byte), 147456 ≤ a.toNat → exec (.srcWrite a v) s = .fault .srcAddress) ∧
    ∀ s : State, s.phase = .run →
      (exec .step s = .fault .inconsistentRun ↔
        ¬ ConfigLegal s.mode s.palsel s.cfgW.toNat s.cfgH.toNat ∨ s.cfgH.toNat ≤ s.posY.toNat ∨
          specStride s.mode s.cfgW.toNat ≤ s.posG.toNat ∨ 6144 ≤ s.outCnt.toNat) ∧
      (exec .step s ≠ .fault .inconsistentRun → ∃ t, exec .step s = .next t)

/-- 70_reset_and_hazards.md R185, 45_host_interface.md R150: RESET in any state gives every register its reset value and leaves SRC; no
byte of OUT is listed, and HOST's requests and records stay (log 15). -/
def Obligations.ResetRestoresRegisters : Prop :=
  ∀ s : State, exec .reset s = .next
    { phase := .idle, errcode := 0, mode := 0, palsel := 0, cfgW := 256, cfgH := 192, imgW := 0, imgH := 0, posY := 0,
      posG := 0, outCnt := 0, src := s.src, out := [], script := s.script, reply := s.reply, draws := s.draws }

/-- 10_state.md R26, R22: the values after reset that the spec gives, and the constant palettes. -/
def Obligations.ResetStateValues : Prop :=
  State.reset.phase = .idle ∧ statusWord State.reset.phase = 0 ∧ State.reset.errcode = 0 ∧ State.reset.mode = 0 ∧
    State.reset.palsel = 0 ∧ State.reset.cfgW.toNat = 256 ∧ State.reset.cfgH.toNat = 192 ∧ State.reset.imgW = 0 ∧
    State.reset.imgH = 0 ∧ State.reset.posY = 0 ∧ State.reset.posG = 0 ∧ State.reset.outCnt = 0 ∧
    palA = ⟨⟨0, 255, 0⟩, ⟨255, 255, 0⟩, ⟨0, 0, 255⟩, ⟨255, 0, 0⟩⟩ ∧
    palB = ⟨⟨255, 255, 255⟩, ⟨0, 255, 255⟩, ⟨255, 0, 255⟩, ⟨255, 128, 0⟩⟩

-- The units of FourColor mode.

/-- 40_nearest_color.md R70: Dist is the squared Euclidean distance over the integers, symmetric, 0 of a Pixel with itself, at most
195075, reached only by opposite cube corners; the active unit returns it in 18 bits. -/
def Obligations.DistIsSquaredDistance : Prop :=
  (∀ p q : Pixel,
    (distOf p q : Int) = ((p.r.toNat : Int) - q.r.toNat) ^ 2 + ((p.g.toNat : Int) - q.g.toNat) ^ 2 +
      ((p.b.toNat : Int) - q.b.toNat) ^ 2 ∧
    distOf p q = distOf q p ∧ distOf p p = 0 ∧ distOf p q ≤ 195075 ∧
    (distOf p q = 195075 ↔
      (p.r = 0 ∧ q.r = 255 ∨ p.r = 255 ∧ q.r = 0) ∧ (p.g = 0 ∧ q.g = 255 ∨ p.g = 255 ∧ q.g = 0) ∧
        (p.b = 0 ∧ q.b = 255 ∨ p.b = 255 ∧ q.b = 0))) ∧
  ∀ (s : State) (P : Palette) (p q : Pixel), SelectsFourColor s P →
    ∃ d : BitVec 18, d.toNat = distOf p q ∧ exec (.dist p q) s = .next { s with reply := .distance d }

/-- 40_nearest_color.md R71, R72, R73: Nearest gives the least index of a palette entry at the least distance; each entry of the two
palettes is nearest to itself; the active unit returns the index for the selected palette. -/
def Obligations.NearestIsLeastMinimum : Prop :=
  (∀ (p : Pixel) (P : Palette) (j : BitVec 2),
    distOf p (P.entry (nearestOf p P)) ≤ distOf p (P.entry j) ∧
    (j.toNat < (nearestOf p P).toNat → distOf p (P.entry (nearestOf p P)) < distOf p (P.entry j))) ∧
  (∀ i : BitVec 2, nearestOf (palA.entry i) palA = i ∧ nearestOf (palB.entry i) palB = i) ∧
  ∀ (s : State) (P : Palette) (p : Pixel), SelectsFourColor s P →
    exec (.nearest p) s = .next { s with reply := .code (nearestOf p P) }

/-- 41_merge.md R80: Merge is the channel-wise truncated average, symmetric, and a Pixel with itself gives the Pixel; the active
unit returns it. -/
def Obligations.MergeTruncatesAverage : Prop :=
  (∀ a b : Pixel,
    (mergeOf a b).r.toNat = (a.r.toNat + b.r.toNat) / 2 ∧ (mergeOf a b).g.toNat = (a.g.toNat + b.g.toNat) / 2 ∧
      (mergeOf a b).b.toNat = (a.b.toNat + b.b.toNat) / 2 ∧ mergeOf a b = mergeOf b a ∧ mergeOf a a = a) ∧
  ∀ (s : State) (P : Palette) (a b : Pixel), SelectsFourColor s P →
    exec (.merge a b) s = .next { s with reply := .pixel (mergeOf a b) }

/-- 42_pack4.md R86, R87, R89: inside the image the active units CODE4, GROUP4 and ROW4 return the code, the byte and the bytes of the
row, computed from SRC, and change nothing else. -/
def Obligations.FourColorUnitsComplete : Prop :=
  ∀ (s : State) (P : Palette) (y : BitVec 8), SelectsFourColor s P →
    ConfigLegal s.mode s.palsel s.cfgW.toNat s.cfgH.toNat → y.toNat < s.cfgH.toNat →
    (∀ j : BitVec 7, j.toNat < s.cfgW.toNat / 2 →
      exec (.code4 y j) s = .next { s with reply := .code (nearestOf
        (mergeOf (pix s.src s.cfgW.toNat y.toNat (2 * j.toNat)) (pix s.src s.cfgW.toNat y.toNat (2 * j.toNat + 1))) P) }) ∧
    (∀ g : BitVec 6, g.toNat < (s.cfgW.toNat / 2 + 3) / 4 →
      exec (.group4 y g) s = .next { s with reply := .groupByte (group4Of s.src P s.cfgW.toNat y.toNat g.toNat) }) ∧
    exec (.row4 y) s = .next { s with reply := .row (row4Of s.src P s.cfgW.toNat y.toNat) }

/-- 42_pack4.md R87, R88, 30_encoding.md R52: slot i of a FourColor byte holds the code of hardware pixel 4g + i in bits
(3 - i) * 2 + 1 and (3 - i) * 2, and 0 if that pixel is beyond the row. -/
def Obligations.Group4FieldsAreCodes : Prop :=
  ∀ (m : Memory) (P : Palette) (w y g i : Nat), i < 4 →
    (group4Of m P w y g >>> ((3 - i) * 2)).setWidth 2 =
      if 4 * g + i < w / 2 then nearestOf (mergeOf (pix m w y (2 * (4 * g + i))) (pix m w y (2 * (4 * g + i) + 1))) P
      else 0

/-- 42_pack4.md R90: a FourColor row has Stride4(W) bytes, the code of hardware pixel j is at byte j div 4 and shift
(3 - j mod 4) * 2, and the bits of slots at or beyond MergedWidth(W) are 0. -/
def Obligations.Row4Unpacks : Prop :=
  ∀ (m : Memory) (P : Palette) (w y : Nat),
    (row4Of m P w y).length = (w / 2 + 3) / 4 ∧
    ∀ j, j / 4 < (w / 2 + 3) / 4 → ∃ b, (row4Of m P w y)[j / 4]? = some b ∧
      (b >>> ((3 - j % 4) * 2)).setWidth 2 = if j < w / 2 then code4Of m P w y j else 0

-- The units of Monochrome mode.

/-- 43_pack1.md R95: Luma is the truncated weighted sum, 0 to 255, and v of (v, v, v); the active unit returns it. -/
def Obligations.LumaIsTruncatedWeightedSum : Prop :=
  (∀ p : Pixel, lumaOf p = (299 * p.r.toNat + 587 * p.g.toNat + 114 * p.b.toNat) / 1000 ∧ lumaOf p ≤ 255) ∧
  (∀ v : Byte, lumaOf ⟨v, v, v⟩ = v.toNat) ∧
  ∀ (s : State) (p : Pixel), SelectsMonochrome s →
    ∃ v : Byte, v.toNat = lumaOf p ∧ exec (.luma p) s = .next { s with reply := .luma v }

/-- 43_pack1.md R96: Bit1 is 1 exactly when the luma is above 127, equivalently when the weighted sum is at least 128000, equivalently
it is bit 7 of the luma; the active unit returns it. -/
def Obligations.Bit1IsStrictThreshold : Prop :=
  (∀ p : Pixel, (bit1Of p = 1 ↔ 127 < lumaOf p) ∧
    (bit1Of p = 1 ↔ 128000 ≤ 299 * p.r.toNat + 587 * p.g.toNat + 114 * p.b.toNat) ∧
    (bit1Of p = 1 ↔ (lumaOf p).testBit 7 = true)) ∧
  ∀ (s : State) (p : Pixel), SelectsMonochrome s →
    exec (.thresh p) s = .next { s with reply := .bit (if 127 < lumaOf p then 1 else 0) }

/-- 43_pack1.md R98, R99, 30_encoding.md R53: bit 7 - k of a Monochrome byte is the decision of pixel 8g + k, and 0 if that pixel is
beyond the row. -/
def Obligations.Group1BitsAreDecisions : Prop :=
  ∀ (m : Memory) (w y g k : Nat), k < 8 →
    ((group1Of m w y g).getLsbD (7 - k) = true ↔ 8 * g + k < w ∧ 127 < lumaOf (pix m w y (8 * g + k)))

/-- 43_pack1.md R101: a Monochrome row has Stride1(W) bytes, the decision of pixel x is bit 7 - x mod 8 of byte x div 8, the bits at or
beyond W are 0, and ROW1 does not depend on PALSEL. -/
def Obligations.Row1Unpacks : Prop :=
  (∀ (m : Memory) (w y : Nat),
    (row1Of m w y).length = (w + 7) / 8 ∧
    ∀ x, x / 8 < (w + 7) / 8 → ∃ b, (row1Of m w y)[x / 8]? = some b ∧
      (b.getLsbD (7 - x % 8) = true ↔ x < w ∧ bit1Of (pix m w y x) = 1)) ∧
  ∀ (s t : State) (y : BitVec 8) (p : BitVec 2), SelectsMonochrome s → exec (.row1 y) s = .next t →
    exec (.row1 y) { s with palsel := p } = .next { t with palsel := p }

/-- 43_pack1.md R98, R100: inside the image the active units GROUP1 and ROW1 return the byte and the bytes of the row, computed from
SRC, and change nothing else. -/
def Obligations.MonochromeUnitsComplete : Prop :=
  ∀ (s : State) (y : BitVec 8), SelectsMonochrome s →
    ConfigLegal s.mode s.palsel s.cfgW.toNat s.cfgH.toNat → y.toNat < s.cfgH.toNat →
    (∀ g : BitVec 6, g.toNat < (s.cfgW.toNat + 7) / 8 →
      exec (.group1 y g) s = .next { s with reply := .groupByte (group1Of s.src s.cfgW.toNat y.toNat g.toNat) }) ∧
    exec (.row1 y) s = .next { s with reply := .row (row1Of s.src s.cfgW.toNat y.toNat) }

/-- 40_nearest_color.md to 43_pack1.md, "active under SEL = 000p" and "active under SEL = 01pp" (the model's reading, log 8): a unit under
a selector that does not make it active changes nothing. -/
def Obligations.InactiveUnitsDoNothing : Prop :=
  (∀ (s : State) (p q : Pixel) (y : BitVec 8) (j : BitVec 7) (g : BitVec 6),
    (s.mode ≠ 0 ∨ (s.palsel ≠ 0 ∧ s.palsel ≠ 1)) →
    exec (.dist p q) s = .next s ∧ exec (.nearest p) s = .next s ∧ exec (.merge p q) s = .next s ∧
      exec (.code4 y j) s = .next s ∧ exec (.group4 y g) s = .next s ∧ exec (.row4 y) s = .next s) ∧
  ∀ (s : State) (p : Pixel) (y : BitVec 8) (g : BitVec 6), s.mode ≠ 1 →
    exec (.luma p) s = .next s ∧ exec (.thresh p) s = .next s ∧ exec (.group1 y g) s = .next s ∧
      exec (.row1 y) s = .next s

/-- 42_pack4.md R86 ("It is defined only for j < MergedWidth(W)"), R87, R89, 43_pack1.md R98, R100 (the free values are the model's,
log 8): outside the image, or in an illegal configuration, the active units that read SRC return fresh free values. -/
def Obligations.UnitsOutsideImageReturnFreeValues : Prop :=
  (∀ (s : State) (P : Palette) (y : BitVec 8), SelectsFourColor s P →
    (∀ j : BitVec 7, (¬ ConfigLegal s.mode s.palsel s.cfgW.toNat s.cfgH.toNat ∨ s.cfgH.toNat ≤ y.toNat ∨
        s.cfgW.toNat / 2 ≤ j.toNat) →
      exec (.code4 y j) s = .next { s with reply := .code (Config.codeUnspecified s.draws), draws := s.draws + 1 }) ∧
    (∀ g : BitVec 6, (¬ ConfigLegal s.mode s.palsel s.cfgW.toNat s.cfgH.toNat ∨ s.cfgH.toNat ≤ y.toNat ∨
        (s.cfgW.toNat / 2 + 3) / 4 ≤ g.toNat) →
      exec (.group4 y g) s =
        .next { s with reply := .groupByte (Config.unitUnspecified s.draws), draws := s.draws + 1 }) ∧
    ((¬ ConfigLegal s.mode s.palsel s.cfgW.toNat s.cfgH.toNat ∨ s.cfgH.toNat ≤ y.toNat) →
      exec (.row4 y) s = .next
        { s with reply := .row ((List.range ((s.cfgW.toNat / 2 + 3) / 4)).map (fun i => Config.unitUnspecified (s.draws + i))),
                 draws := s.draws + (s.cfgW.toNat / 2 + 3) / 4 })) ∧
  ∀ (s : State) (y : BitVec 8), SelectsMonochrome s →
    (∀ g : BitVec 6, (¬ ConfigLegal s.mode s.palsel s.cfgW.toNat s.cfgH.toNat ∨ s.cfgH.toNat ≤ y.toNat ∨
        (s.cfgW.toNat + 7) / 8 ≤ g.toNat) →
      exec (.group1 y g) s =
        .next { s with reply := .groupByte (Config.unitUnspecified s.draws), draws := s.draws + 1 }) ∧
    ((¬ ConfigLegal s.mode s.palsel s.cfgW.toNat s.cfgH.toNat ∨ s.cfgH.toNat ≤ y.toNat) →
      exec (.row1 y) s = .next
        { s with reply := .row ((List.range ((s.cfgW.toNat + 7) / 8)).map (fun i => Config.unitUnspecified (s.draws + i))),
                 draws := s.draws + (s.cfgW.toNat + 7) / 8 })

-- The encoder.

/-- 44_encoder.md R108: Encode has Total bytes, and byte y * stride + g is GroupByte(y, g). -/
def Obligations.EncodeIsRowsOfGroupBytes : Prop :=
  ∀ (m : Memory) (op : EncOp) (w h : Nat),
    (encodeImage m op w h).length = stride op w * h ∧
    ∀ y g, y < h → g < stride op w → (encodeImage m op w h)[y * stride op w + g]? = some (groupByteOf m op w y g)

/-- 44_encoder.md R114, R115, R116 (a row of the selector map is run as select, START and all group steps, log 7): outside RUN, with legal
sizes that match the declared ones, the encoding operation answers the state at the end of its run: DONE, and OUT holds Encode of SRC;
nothing else changes but the selector registers. -/
def Obligations.EncodingOperationsProduceEncode : Prop :=
  ∀ (s : State) (i : Instr) (mode palsel : BitVec 2) (op : EncOp), EncodesWith i mode palsel → Selects mode palsel op →
    s.phase ≠ .run → ConfigLegal mode palsel s.cfgW.toNat s.cfgH.toNat → s.imgW = s.cfgW → s.imgH = s.cfgH →
    ∃ t, exec i s = .next t ∧
      t = { s with phase := .done, errcode := 0, mode := mode, palsel := palsel, posY := s.cfgH.setWidth 8, posG := 0,
                   outCnt := t.outCnt, out := t.out } ∧
      t.outCnt.toNat = specStride mode s.cfgW.toNat * s.cfgH.toNat ∧
      streamOf t = (encodeImage s.src op s.cfgW.toNat s.cfgH.toNat).map some ∧
      ∀ a, t.outCnt.toNat ≤ a → Memory.read? t.out a = Memory.read? s.out a

/-- 44_encoder.md R111, R114 to R116, 60_exceptions.md R161, R162 (log 7): the encoding operations are ignored in RUN, and outside it their
START raises the two errors as R111 says. -/
def Obligations.EncodingOperationsRaiseAtStart : Prop :=
  ∀ (s : State) (i : Instr) (mode palsel : BitVec 2), EncodesWith i mode palsel →
    (s.phase = .run → exec i s = .next s) ∧
    (s.phase ≠ .run → ¬ ConfigLegal mode palsel s.cfgW.toNat s.cfgH.toNat →
      exec i s = .next { s with phase := .err, errcode := 1, mode := mode, palsel := palsel, outCnt := 0, posY := 0,
                                posG := 0 }) ∧
    (s.phase ≠ .run → ConfigLegal mode palsel s.cfgW.toNat s.cfgH.toNat → ¬ (s.imgW = s.cfgW ∧ s.imgH = s.cfgH) →
      exec i s = .next { s with phase := .err, errcode := 2, mode := mode, palsel := palsel, outCnt := 0, posY := 0,
                                posG := 0 })

/-- 60_exceptions.md R161 (i), (ii), 30_encoding.md R57 (log 7): outside RUN a reserved selector raises InvalidConfiguration whatever the
sizes are; in RUN it is ignored. -/
def Obligations.ReservedSelectorsRaiseInvalidConfiguration : Prop :=
  (∀ (s : State) (p : BitVec 1),
    (s.phase ≠ .run → exec (.selRsvdPal p) s = .next
      { s with phase := .err, errcode := 1, mode := 0, palsel := 1#1 ++ p, outCnt := 0, posY := 0, posG := 0 }) ∧
    (s.phase = .run → exec (.selRsvdPal p) s = .next s)) ∧
  ∀ (s : State) (p : BitVec 3),
    (s.phase ≠ .run → exec (.selRsvdMode p) s = .next
      { s with phase := .err, errcode := 1, mode := 1#1 ++ p.extractLsb' 2 1, palsel := p.extractLsb' 0 2, outCnt := 0,
               posY := 0, posG := 0 }) ∧
    (s.phase = .run → exec (.selRsvdMode p) s = .next s)

/-- 44_encoder.md R113 to R116, 30_encoding.md R62 (log 7): an encoding operation answers what the machine reaches, one step at a time,
from the script `WR MODE; WR PALSEL; START` followed by SEQ's own Total steps. -/
def Obligations.EncodingOperationIsItsScript : Prop :=
  ∀ (s : State) (i : Instr) (mode palsel : BitVec 2), EncodesWith i mode palsel → s.phase ≠ .run → s.script = [] →
    ConfigLegal mode palsel s.cfgW.toNat s.cfgH.toNat → s.imgW = s.cfgW → s.imgH = s.cfgH →
    Host.Core.run Sys2Proof.core (3 + specStride mode s.cfgW.toNat * s.cfgH.toNat)
      { s with script := [.host (hostWord 1 3 (mode.setWidth 16)), .host (hostWord 1 4 (palsel.setWidth 16)),
                          .host (hostWord 1 0 1)] } = exec i s

/-- 44_encoder.md R117: after an accepted START, while HOST does anything but write SRC or reset between the steps, k group steps
leave the first k bytes of Encode in OUT, OUT_CNT = k and pos = (k div stride, k mod stride); the machine is in RUN before the last
of the Total steps, and that step brings it to DONE with the whole of Encode. -/
def Obligations.RunAgreesWithEncode : Prop :=
  ∀ (s : State) (op : EncOp) (is : List Instr), s.phase ≠ .run → Selects s.mode s.palsel op →
    ConfigLegal s.mode s.palsel s.cfgW.toNat s.cfgH.toNat → s.imgW = s.cfgW → s.imgH = s.cfgH →
    (∀ i ∈ is, i.wellFormed = true ∧ i ≠ .reset ∧ ∀ a v, i ≠ .srcWrite a v) →
    is.count .step < specStride s.mode s.cfgW.toNat * s.cfgH.toNat →
    ∃ t, execAll (.start :: is) s = .next t ∧ t.phase = .run ∧
      streamOf t = ((encodeImage s.src op s.cfgW.toNat s.cfgH.toNat).take (is.count .step)).map some ∧
      t.outCnt.toNat = is.count .step ∧
      t.posY.toNat = is.count .step / specStride s.mode s.cfgW.toNat ∧
      t.posG.toNat = is.count .step % specStride s.mode s.cfgW.toNat ∧
      (is.count .step + 1 = specStride s.mode s.cfgW.toNat * s.cfgH.toNat →
        ∃ u, exec .step t = .next u ∧ u.phase = .done ∧
          streamOf u = (encodeImage s.src op s.cfgW.toNat s.cfgH.toNat).map some ∧
          u.outCnt.toNat = specStride s.mode s.cfgW.toNat * s.cfgH.toNat ∧ u.posY.toNat = s.cfgH.toNat ∧ u.posG = 0)

/-- 20_memory.md R33: Encode of a legal configuration reads only the offsets below W * H * 3 of SRC. -/
def Obligations.EncodeReadsOnlyTheImage : Prop :=
  ∀ (m m' : Memory) (mode palsel : BitVec 2) (op : EncOp) (w h : Nat), Selects mode palsel op →
    ConfigLegal mode palsel w h → AgreeBelow (w * h * 3) m m' → encodeImage m op w h = encodeImage m' op w h

/-- 10_state.md R15, 43_pack1.md R101 (4): PALSEL is not read when MODE = 1: START, STEP and OutRead do the same whatever it holds. -/
def Obligations.MonochromeIgnoresPalsel : Prop :=
  ∀ (s t : State) (p : BitVec 2), s.mode = 1 →
    (exec .start s = .next t → exec .start { s with palsel := p } = .next { t with palsel := p }) ∧
    (exec .step s = .next t → exec .step { s with palsel := p } = .next { t with palsel := p }) ∧
    ∀ k : BitVec 13, exec (.outRead k) s = .next t → exec (.outRead k) { s with palsel := p } = .next { t with palsel := p }

-- Invariants.

/-- 10_state.md R27, R13, R14, with the canonical form of the memories: every step keeps the invariant. -/
def Obligations.StepKeepsInvariant : Prop :=
  ∀ s t : State, Inv s → step s = .next t → Inv t

/-- 10_state.md R26, R27: the state after reset satisfies the invariant. -/
def Obligations.ResetSatisfiesInvariant : Prop := Inv State.reset

/-- 10_state.md R13, R14, R20, R27, 45_host_interface.md R127, R141, R143, R145: the ranges of the registers in a state that satisfies
the invariant. -/
def Obligations.RegisterRanges : Prop :=
  ∀ s : State, Inv s → s.errcode.toNat ≤ 2 ∧ s.posY.toNat ≤ 192 ∧ s.posG.toNat ≤ 31 ∧ s.outCnt.toNat ≤ 6144 ∧
    (s.phase = .run → s.outCnt.toNat < 6144 ∧ s.posY.toNat < s.cfgH.toNat)

/-- 70_reset_and_hazards.md R195, 60_exceptions.md R162: in a state that satisfies the invariant a run has a result exactly in DONE and
ERR: in DONE the OUT_CNT bytes of OUT in order, in ERR no byte, and the error code with the four size registers. -/
def Obligations.EndedRunHasItsResult : Prop :=
  ∀ s : State, Inv s →
    (runResult s ≠ none ↔ s.phase = .done ∨ s.phase = .err) ∧
    (s.phase = .done → ∃ bytes : List Byte, runResult s = some (.stream (bytes.map some)) ∧
      bytes.length = s.outCnt.toNat ∧ ∀ k, k < s.outCnt.toNat → bytes[k]? = Memory.read? s.out k) ∧
    (s.phase = .err → streamOf s = [] ∧ (s.errcode = 1 ∨ s.errcode = 2) ∧
      runResult s = some (.failure s.errcode s.cfgW s.cfgH s.imgW s.imgH))

/-- 45_host_interface.md R120, 60_exceptions.md R166, 44_encoder.md R112: in a state that satisfies the invariant every operation
answers a next state, whatever its operands are, but for the offsets that OUT or SRC does not have. -/
def Obligations.EveryOperationCompletes : Prop :=
  ∀ (s : State) (i : Instr), Inv s → i.wellFormed = true → ∃ t, exec i s = .next t

/-- 20_memory.md R30, R31, R36: two memories in canonical form that read the same at every offset are equal. -/
def Obligations.CanonicalMemoriesAreEqual : Prop :=
  ∀ (size : Nat) (m m' : Memory), Memory.wf size m = true → Memory.wf size m' = true →
    (∀ a, Memory.read? m a = Memory.read? m' a) → m = m'

-- Rules of the whole machine.

/-- 44_encoder.md R118, 10_state.md R23, 70_reset_and_hazards.md R185: only SrcWrite changes SRC. -/
def Obligations.OnlySrcWriteChangesSrc : Prop :=
  ∀ (s t : State) (i : Instr), exec i s = .next t → (∀ a v, i ≠ .srcWrite a v) → t.src = s.src

/-- 10_state.md R15, R16, R17, 70_reset_and_hazards.md R190: in RUN no operation but RESET changes a configuration register; outside it each
is changed only by its own write, by RESET, and the selector registers also by the operations of the selector map (log 7). -/
def Obligations.ConfigurationFixedInRun : Prop :=
  ∀ (s t : State) (i : Instr), exec i s = .next t → i ≠ .reset →
    (s.phase = .run → t.mode = s.mode ∧ t.palsel = s.palsel ∧ t.cfgW = s.cfgW ∧ t.cfgH = s.cfgH ∧ t.imgW = s.imgW ∧
      t.imgH = s.imgH) ∧
    ((∀ d, i ≠ .wrMode d) → i.format ≠ .sel → t.mode = s.mode) ∧
    ((∀ d, i ≠ .wrPalsel d) → i.format ≠ .sel → t.palsel = s.palsel) ∧
    ((∀ d, i ≠ .wrCfgW d) → t.cfgW = s.cfgW) ∧ ((∀ d, i ≠ .wrCfgH d) → t.cfgH = s.cfgH) ∧
    ((∀ d, i ≠ .wrImgW d) → t.imgW = s.imgW) ∧ ((∀ d, i ≠ .wrImgH d) → t.imgH = s.imgH)

/-- 10_state.md R13: no operation sets the scan position to any value but (0, 0) or its successor (an operation of the selector map takes
many successors, log 7, and is left out). -/
def Obligations.ScanPositionStaysOrAdvances : Prop :=
  ∀ (s t : State) (i : Instr), exec i s = .next t → i.format ≠ .sel →
    (t.posY = s.posY ∧ t.posG = s.posG) ∨ (t.posY = 0 ∧ t.posG = 0) ∨
    (i = .step ∧ s.phase = .run ∧
      ((s.posG.toNat + 1 < specStride s.mode s.cfgW.toNat ∧ t.posY = s.posY ∧ t.posG = s.posG + 1) ∨
       (specStride s.mode s.cfgW.toNat ≤ s.posG.toNat + 1 ∧ t.posY = s.posY + 1 ∧ t.posG = 0)))

/-- 20_memory.md R36, R37: until the next START or reset, OUT_CNT does not fall and no byte of OUT below it changes; only STEP, RESET and
the operations of the selector map change OUT at all. -/
def Obligations.StreamBytesAreFinal : Prop :=
  ∀ (s t : State) (i : Instr), exec i s = .next t → isStart i = false → i ≠ .reset →
    s.outCnt.toNat ≤ t.outCnt.toNat ∧ (∀ k, k < s.outCnt.toNat → Memory.read? t.out k = Memory.read? s.out k) ∧
    (i ≠ .step → t.out = s.out ∧ t.outCnt = s.outCnt)

/-- 45_host_interface.md R150, 44_encoder.md R113: RUN is left only by the STEP that ends the run, into DONE, or by RESET. -/
def Obligations.RunLeftOnlyByStepOrReset : Prop :=
  ∀ (s t : State) (i : Instr), exec i s = .next t → s.phase = .run → t.phase ≠ .run →
    i = .reset ∨ (i = .step ∧ t.phase = .done ∧ t.posY.toNat = s.cfgH.toNat ∧ t.posG = 0)

/-- 60_exceptions.md R168: ERR is left only by a new START (an operation of the selector map contains one, log 7) or by RESET. -/
def Obligations.ErrorLeftOnlyByStartOrReset : Prop :=
  ∀ (s t : State) (i : Instr), exec i s = .next t → s.phase = .err → t.phase ≠ .err → isStart i = true ∨ i = .reset

/-- 10_state.md R14, 60_exceptions.md R161, R162, R166: ERRCODE changes, and ERR is entered, only by a START (an operation of the selector
map contains one, log 7) outside RUN; RESET too changes ERRCODE. -/
def Obligations.ErrorsOnlyFromStart : Prop :=
  ∀ (s t : State) (i : Instr), exec i s = .next t →
    (t.errcode ≠ s.errcode → (isStart i = true ∧ s.phase ≠ .run) ∨ i = .reset) ∧
    (t.phase = .err → s.phase ≠ .err → isStart i = true ∧ s.phase ≠ .run)

/-- 45_host_interface.md R121, R149, 20_memory.md R40, 40_nearest_color.md R73: the reads and the units change no state of the block: only
the value returned and the count of free values (logs 3 and 4) can differ. -/
def Obligations.ReadsChangeOnlyTheReply : Prop :=
  ∀ (s t : State) (i : Instr), isRead i = true → exec i s = .next t →
    t = { s with reply := t.reply, draws := t.draws } ∧ s.draws ≤ t.draws

/-- 30_encoding.md R50 (the request without bits is the model's, log 11): a unit or a primitive is presented as it is, and the next step
runs it for every value of its operands; the only request refused is a transaction or a selector without its bits. -/
def Obligations.NoOperandIsRefused : Prop :=
  ∀ (s : State) (rest : List Request) (i : Instr),
    (i.format = .unit ∨ i.format = .prim → step { s with script := .direct i :: rest } = exec i { s with script := rest }) ∧
    ∀ (r : Request) (e : Refusal), step { s with script := r :: rest } = .refused e →
      ∃ j, r = .direct j ∧ (j.format = .host ∨ j.format = .sel) ∧ e = .undecodable .formatHasBits
end

