-- ==== Sys2Proof/Laws/Memory.lean ====
section
/-! SUPPORT. The laws of a byte memory: a read after a write, and the canonical form, which every operation keeps. -/

namespace Sys2Proof.Machine

theorem Memory.read?_write_same (m : Memory) (a : Nat) (v : Byte) :
    Memory.read? (Memory.write m a v) a = some v := by
  induction m with
  | nil => simp [Memory.write, Memory.read?]
  | cons c rest ih =>
    obtain ⟨b, u⟩ := c
    unfold Memory.write
    split
    · simp [Memory.read?]
    · split
      · simp [Memory.read?]
      · rename_i hne
        simpa [Memory.read?, hne] using ih

theorem Memory.read?_write_other (m : Memory) (a a' : Nat) (v : Byte) (h : a' ≠ a) :
    Memory.read? (Memory.write m a v) a' = Memory.read? m a' := by
  induction m with
  | nil => simp [Memory.write, Memory.read?, h]
  | cons c rest ih =>
    obtain ⟨b, u⟩ := c
    unfold Memory.write
    split
    · simp [Memory.read?, h]
    · split
      · subst_vars; simp [Memory.read?, h]
      · by_cases hb : a' = b <;> simp [Memory.read?, hb]
        simpa [hb] using ih

/-- A read of the byte just written, or of any other offset. -/
theorem Memory.read?_write (m : Memory) (a a' : Nat) (v : Byte) :
    Memory.read? (Memory.write m a v) a' = if a' = a then some v else Memory.read? m a' := by
  split
  · subst_vars; exact Memory.read?_write_same m _ v
  · exact Memory.read?_write_other m a a' v (by assumption)

/-- A bound below all listed offsets stays one when an offset above it is written. -/
theorem Memory.all_above_write (m : Memory) (a b : Nat) (v : Byte) (hb : b < a)
    (h : m.all (fun c => decide (b < c.1)) = true) :
    (Memory.write m a v).all (fun c => decide (b < c.1)) = true := by
  induction m with
  | nil => simp [Memory.write, hb]
  | cons c rest ih =>
    obtain ⟨d, u⟩ := c
    simp only [List.all_cons, Bool.and_eq_true, decide_eq_true_eq] at h
    unfold Memory.write
    split
    · simp only [List.all_cons, Bool.and_eq_true, decide_eq_true_eq]
      exact ⟨hb, h⟩
    · split
      · simp only [List.all_cons, Bool.and_eq_true, decide_eq_true_eq]
        exact ⟨hb, h.2⟩
      · simp only [List.all_cons, Bool.and_eq_true, decide_eq_true_eq]
        exact ⟨h.1, ih h.2⟩

/-- A write inside the memory keeps its canonical form. -/
theorem Memory.wf_write (size : Nat) (m : Memory) (a : Nat) (v : Byte) (ha : a < size)
    (h : Memory.wf size m = true) : Memory.wf size (Memory.write m a v) = true := by
  induction m with
  | nil => simp [Memory.write, Memory.wf, ha]
  | cons c rest ih =>
    obtain ⟨b, u⟩ := c
    simp only [Memory.wf, Bool.and_eq_true, decide_eq_true_eq] at h
    obtain ⟨⟨hb, hall⟩, hrest⟩ := h
    unfold Memory.write
    split
    · rename_i hlt
      simp only [Memory.wf, Bool.and_eq_true, decide_eq_true_eq, List.all_cons]
      refine ⟨⟨ha, hlt, ?_⟩, ⟨hb, hall⟩, hrest⟩
      simp only [List.all_eq_true, decide_eq_true_eq] at hall ⊢
      intro c hc
      exact lt_trans hlt (hall c hc)
    · split
      · rename_i heq
        simp only [Memory.wf, Bool.and_eq_true, decide_eq_true_eq]
        exact ⟨⟨ha, heq ▸ hall⟩, hrest⟩
      · rename_i hge hne
        simp only [Memory.wf, Bool.and_eq_true, decide_eq_true_eq]
        exact ⟨⟨hb, Memory.all_above_write rest a b v (by omega) hall⟩, ih hrest⟩

/-- The empty memory is in canonical form. -/
theorem Memory.wf_nil (size : Nat) : Memory.wf size [] = true := rfl

/-- The memories of the reset state are in canonical form. -/
theorem reset_memories_wf :
    Memory.wf Config.srcBytes State.reset.src = true ∧ Memory.wf Config.outBytes State.reset.out = true :=
  ⟨rfl, rfl⟩

end Sys2Proof.Machine
end

