-- ==== Sys2Proof/Laws/State.lean ====
section
/-! SUPPORT. The fields of a state after each named update, one lemma per field, so that no later proof unfolds an update. -/

namespace Sys2Proof.Machine

variable (s : State)

-- withReply
@[simp] theorem State.withReply_phase (r : Reply) : (s.withReply r).phase = s.phase := rfl
@[simp] theorem State.withReply_errcode (r : Reply) : (s.withReply r).errcode = s.errcode := rfl
@[simp] theorem State.withReply_mode (r : Reply) : (s.withReply r).mode = s.mode := rfl
@[simp] theorem State.withReply_palsel (r : Reply) : (s.withReply r).palsel = s.palsel := rfl
@[simp] theorem State.withReply_cfgW (r : Reply) : (s.withReply r).cfgW = s.cfgW := rfl
@[simp] theorem State.withReply_cfgH (r : Reply) : (s.withReply r).cfgH = s.cfgH := rfl
@[simp] theorem State.withReply_imgW (r : Reply) : (s.withReply r).imgW = s.imgW := rfl
@[simp] theorem State.withReply_imgH (r : Reply) : (s.withReply r).imgH = s.imgH := rfl
@[simp] theorem State.withReply_posY (r : Reply) : (s.withReply r).posY = s.posY := rfl
@[simp] theorem State.withReply_posG (r : Reply) : (s.withReply r).posG = s.posG := rfl
@[simp] theorem State.withReply_outCnt (r : Reply) : (s.withReply r).outCnt = s.outCnt := rfl
@[simp] theorem State.withReply_src (r : Reply) : (s.withReply r).src = s.src := rfl
@[simp] theorem State.withReply_out (r : Reply) : (s.withReply r).out = s.out := rfl
@[simp] theorem State.withReply_script (r : Reply) : (s.withReply r).script = s.script := rfl
@[simp] theorem State.withReply_reply (r : Reply) : (s.withReply r).reply = r := rfl
@[simp] theorem State.withReply_draws (r : Reply) : (s.withReply r).draws = s.draws := rfl

-- drew
@[simp] theorem State.drew_phase (n : Nat) : (s.drew n).phase = s.phase := rfl
@[simp] theorem State.drew_errcode (n : Nat) : (s.drew n).errcode = s.errcode := rfl
@[simp] theorem State.drew_mode (n : Nat) : (s.drew n).mode = s.mode := rfl
@[simp] theorem State.drew_palsel (n : Nat) : (s.drew n).palsel = s.palsel := rfl
@[simp] theorem State.drew_cfgW (n : Nat) : (s.drew n).cfgW = s.cfgW := rfl
@[simp] theorem State.drew_cfgH (n : Nat) : (s.drew n).cfgH = s.cfgH := rfl
@[simp] theorem State.drew_imgW (n : Nat) : (s.drew n).imgW = s.imgW := rfl
@[simp] theorem State.drew_imgH (n : Nat) : (s.drew n).imgH = s.imgH := rfl
@[simp] theorem State.drew_posY (n : Nat) : (s.drew n).posY = s.posY := rfl
@[simp] theorem State.drew_posG (n : Nat) : (s.drew n).posG = s.posG := rfl
@[simp] theorem State.drew_outCnt (n : Nat) : (s.drew n).outCnt = s.outCnt := rfl
@[simp] theorem State.drew_src (n : Nat) : (s.drew n).src = s.src := rfl
@[simp] theorem State.drew_out (n : Nat) : (s.drew n).out = s.out := rfl
@[simp] theorem State.drew_script (n : Nat) : (s.drew n).script = s.script := rfl
@[simp] theorem State.drew_reply (n : Nat) : (s.drew n).reply = s.reply := rfl
@[simp] theorem State.drew_draws (n : Nat) : (s.drew n).draws = s.draws + n := rfl

-- returnRdata
@[simp] theorem State.returnRdata_phase (v : RegWord) : (s.returnRdata v).phase = s.phase := rfl
@[simp] theorem State.returnRdata_errcode (v : RegWord) : (s.returnRdata v).errcode = s.errcode := rfl
@[simp] theorem State.returnRdata_mode (v : RegWord) : (s.returnRdata v).mode = s.mode := rfl
@[simp] theorem State.returnRdata_palsel (v : RegWord) : (s.returnRdata v).palsel = s.palsel := rfl
@[simp] theorem State.returnRdata_cfgW (v : RegWord) : (s.returnRdata v).cfgW = s.cfgW := rfl
@[simp] theorem State.returnRdata_cfgH (v : RegWord) : (s.returnRdata v).cfgH = s.cfgH := rfl
@[simp] theorem State.returnRdata_imgW (v : RegWord) : (s.returnRdata v).imgW = s.imgW := rfl
@[simp] theorem State.returnRdata_imgH (v : RegWord) : (s.returnRdata v).imgH = s.imgH := rfl
@[simp] theorem State.returnRdata_posY (v : RegWord) : (s.returnRdata v).posY = s.posY := rfl
@[simp] theorem State.returnRdata_posG (v : RegWord) : (s.returnRdata v).posG = s.posG := rfl
@[simp] theorem State.returnRdata_outCnt (v : RegWord) : (s.returnRdata v).outCnt = s.outCnt := rfl
@[simp] theorem State.returnRdata_src (v : RegWord) : (s.returnRdata v).src = s.src := rfl
@[simp] theorem State.returnRdata_out (v : RegWord) : (s.returnRdata v).out = s.out := rfl
@[simp] theorem State.returnRdata_script (v : RegWord) : (s.returnRdata v).script = s.script := rfl
@[simp] theorem State.returnRdata_reply (v : RegWord) : (s.returnRdata v).reply = .rdata v := rfl
@[simp] theorem State.returnRdata_draws (v : RegWord) : (s.returnRdata v).draws = s.draws := rfl

-- select
@[simp] theorem State.select_phase (m p : BitVec 2) : (s.select m p).phase = s.phase := rfl
@[simp] theorem State.select_errcode (m p : BitVec 2) : (s.select m p).errcode = s.errcode := rfl
@[simp] theorem State.select_mode (m p : BitVec 2) : (s.select m p).mode = m := rfl
@[simp] theorem State.select_palsel (m p : BitVec 2) : (s.select m p).palsel = p := rfl
@[simp] theorem State.select_cfgW (m p : BitVec 2) : (s.select m p).cfgW = s.cfgW := rfl
@[simp] theorem State.select_cfgH (m p : BitVec 2) : (s.select m p).cfgH = s.cfgH := rfl
@[simp] theorem State.select_imgW (m p : BitVec 2) : (s.select m p).imgW = s.imgW := rfl
@[simp] theorem State.select_imgH (m p : BitVec 2) : (s.select m p).imgH = s.imgH := rfl
@[simp] theorem State.select_posY (m p : BitVec 2) : (s.select m p).posY = s.posY := rfl
@[simp] theorem State.select_posG (m p : BitVec 2) : (s.select m p).posG = s.posG := rfl
@[simp] theorem State.select_outCnt (m p : BitVec 2) : (s.select m p).outCnt = s.outCnt := rfl
@[simp] theorem State.select_src (m p : BitVec 2) : (s.select m p).src = s.src := rfl
@[simp] theorem State.select_out (m p : BitVec 2) : (s.select m p).out = s.out := rfl
@[simp] theorem State.select_script (m p : BitVec 2) : (s.select m p).script = s.script := rfl
@[simp] theorem State.select_reply (m p : BitVec 2) : (s.select m p).reply = s.reply := rfl
@[simp] theorem State.select_draws (m p : BitVec 2) : (s.select m p).draws = s.draws := rfl

-- emptyStream
@[simp] theorem State.emptyStream_phase : (s.emptyStream).phase = s.phase := rfl
@[simp] theorem State.emptyStream_errcode : (s.emptyStream).errcode = s.errcode := rfl
@[simp] theorem State.emptyStream_mode : (s.emptyStream).mode = s.mode := rfl
@[simp] theorem State.emptyStream_palsel : (s.emptyStream).palsel = s.palsel := rfl
@[simp] theorem State.emptyStream_cfgW : (s.emptyStream).cfgW = s.cfgW := rfl
@[simp] theorem State.emptyStream_cfgH : (s.emptyStream).cfgH = s.cfgH := rfl
@[simp] theorem State.emptyStream_imgW : (s.emptyStream).imgW = s.imgW := rfl
@[simp] theorem State.emptyStream_imgH : (s.emptyStream).imgH = s.imgH := rfl
@[simp] theorem State.emptyStream_posY : (s.emptyStream).posY = 0 := rfl
@[simp] theorem State.emptyStream_posG : (s.emptyStream).posG = 0 := rfl
@[simp] theorem State.emptyStream_outCnt : (s.emptyStream).outCnt = 0 := rfl
@[simp] theorem State.emptyStream_src : (s.emptyStream).src = s.src := rfl
@[simp] theorem State.emptyStream_out : (s.emptyStream).out = s.out := rfl
@[simp] theorem State.emptyStream_script : (s.emptyStream).script = s.script := rfl
@[simp] theorem State.emptyStream_reply : (s.emptyStream).reply = s.reply := rfl
@[simp] theorem State.emptyStream_draws : (s.emptyStream).draws = s.draws := rfl

-- raise
@[simp] theorem State.raise_phase (e : ErrorKind) : (s.raise e).phase = .err := rfl
@[simp] theorem State.raise_errcode (e : ErrorKind) : (s.raise e).errcode = errorCode e := rfl
@[simp] theorem State.raise_mode (e : ErrorKind) : (s.raise e).mode = s.mode := rfl
@[simp] theorem State.raise_palsel (e : ErrorKind) : (s.raise e).palsel = s.palsel := rfl
@[simp] theorem State.raise_cfgW (e : ErrorKind) : (s.raise e).cfgW = s.cfgW := rfl
@[simp] theorem State.raise_cfgH (e : ErrorKind) : (s.raise e).cfgH = s.cfgH := rfl
@[simp] theorem State.raise_imgW (e : ErrorKind) : (s.raise e).imgW = s.imgW := rfl
@[simp] theorem State.raise_imgH (e : ErrorKind) : (s.raise e).imgH = s.imgH := rfl
@[simp] theorem State.raise_posY (e : ErrorKind) : (s.raise e).posY = s.posY := rfl
@[simp] theorem State.raise_posG (e : ErrorKind) : (s.raise e).posG = s.posG := rfl
@[simp] theorem State.raise_outCnt (e : ErrorKind) : (s.raise e).outCnt = s.outCnt := rfl
@[simp] theorem State.raise_src (e : ErrorKind) : (s.raise e).src = s.src := rfl
@[simp] theorem State.raise_out (e : ErrorKind) : (s.raise e).out = s.out := rfl
@[simp] theorem State.raise_script (e : ErrorKind) : (s.raise e).script = s.script := rfl
@[simp] theorem State.raise_reply (e : ErrorKind) : (s.raise e).reply = s.reply := rfl
@[simp] theorem State.raise_draws (e : ErrorKind) : (s.raise e).draws = s.draws := rfl

-- accept
@[simp] theorem State.accept_phase : (s.accept).phase = .run := rfl
@[simp] theorem State.accept_errcode : (s.accept).errcode = 0 := rfl
@[simp] theorem State.accept_mode : (s.accept).mode = s.mode := rfl
@[simp] theorem State.accept_palsel : (s.accept).palsel = s.palsel := rfl
@[simp] theorem State.accept_cfgW : (s.accept).cfgW = s.cfgW := rfl
@[simp] theorem State.accept_cfgH : (s.accept).cfgH = s.cfgH := rfl
@[simp] theorem State.accept_imgW : (s.accept).imgW = s.imgW := rfl
@[simp] theorem State.accept_imgH : (s.accept).imgH = s.imgH := rfl
@[simp] theorem State.accept_posY : (s.accept).posY = s.posY := rfl
@[simp] theorem State.accept_posG : (s.accept).posG = s.posG := rfl
@[simp] theorem State.accept_outCnt : (s.accept).outCnt = s.outCnt := rfl
@[simp] theorem State.accept_src : (s.accept).src = s.src := rfl
@[simp] theorem State.accept_out : (s.accept).out = s.out := rfl
@[simp] theorem State.accept_script : (s.accept).script = s.script := rfl
@[simp] theorem State.accept_reply : (s.accept).reply = s.reply := rfl
@[simp] theorem State.accept_draws : (s.accept).draws = s.draws := rfl

-- appendByte
@[simp] theorem State.appendByte_phase (v : Byte) : (s.appendByte v).phase = s.phase := rfl
@[simp] theorem State.appendByte_errcode (v : Byte) : (s.appendByte v).errcode = s.errcode := rfl
@[simp] theorem State.appendByte_mode (v : Byte) : (s.appendByte v).mode = s.mode := rfl
@[simp] theorem State.appendByte_palsel (v : Byte) : (s.appendByte v).palsel = s.palsel := rfl
@[simp] theorem State.appendByte_cfgW (v : Byte) : (s.appendByte v).cfgW = s.cfgW := rfl
@[simp] theorem State.appendByte_cfgH (v : Byte) : (s.appendByte v).cfgH = s.cfgH := rfl
@[simp] theorem State.appendByte_imgW (v : Byte) : (s.appendByte v).imgW = s.imgW := rfl
@[simp] theorem State.appendByte_imgH (v : Byte) : (s.appendByte v).imgH = s.imgH := rfl
@[simp] theorem State.appendByte_posY (v : Byte) : (s.appendByte v).posY = s.posY := rfl
@[simp] theorem State.appendByte_posG (v : Byte) : (s.appendByte v).posG = s.posG := rfl
@[simp] theorem State.appendByte_outCnt (v : Byte) : (s.appendByte v).outCnt = s.outCnt + 1 := rfl
@[simp] theorem State.appendByte_src (v : Byte) : (s.appendByte v).src = s.src := rfl
@[simp] theorem State.appendByte_out (v : Byte) : (s.appendByte v).out = Memory.write s.out s.outCnt.toNat v := rfl
@[simp] theorem State.appendByte_script (v : Byte) : (s.appendByte v).script = s.script := rfl
@[simp] theorem State.appendByte_reply (v : Byte) : (s.appendByte v).reply = s.reply := rfl
@[simp] theorem State.appendByte_draws (v : Byte) : (s.appendByte v).draws = s.draws := rfl

-- reset of the block
@[simp] theorem resetBlock_phase : (resetBlock s).phase = State.reset.phase := rfl
@[simp] theorem resetBlock_errcode : (resetBlock s).errcode = State.reset.errcode := rfl
@[simp] theorem resetBlock_mode : (resetBlock s).mode = State.reset.mode := rfl
@[simp] theorem resetBlock_palsel : (resetBlock s).palsel = State.reset.palsel := rfl
@[simp] theorem resetBlock_cfgW : (resetBlock s).cfgW = State.reset.cfgW := rfl
@[simp] theorem resetBlock_cfgH : (resetBlock s).cfgH = State.reset.cfgH := rfl
@[simp] theorem resetBlock_imgW : (resetBlock s).imgW = State.reset.imgW := rfl
@[simp] theorem resetBlock_imgH : (resetBlock s).imgH = State.reset.imgH := rfl
@[simp] theorem resetBlock_posY : (resetBlock s).posY = State.reset.posY := rfl
@[simp] theorem resetBlock_posG : (resetBlock s).posG = State.reset.posG := rfl
@[simp] theorem resetBlock_outCnt : (resetBlock s).outCnt = State.reset.outCnt := rfl
@[simp] theorem resetBlock_src : (resetBlock s).src = s.src := rfl
@[simp] theorem resetBlock_out : (resetBlock s).out = State.reset.out := rfl
@[simp] theorem resetBlock_script : (resetBlock s).script = s.script := rfl
@[simp] theorem resetBlock_reply : (resetBlock s).reply = s.reply := rfl
@[simp] theorem resetBlock_draws : (resetBlock s).draws = s.draws := rfl

-- State.reset
@[simp] theorem State.reset_phase : State.reset.phase = .idle := rfl
@[simp] theorem State.reset_errcode : State.reset.errcode = 0 := rfl
@[simp] theorem State.reset_mode : State.reset.mode = 0 := rfl
@[simp] theorem State.reset_palsel : State.reset.palsel = 0 := rfl
@[simp] theorem State.reset_cfgW : State.reset.cfgW = 256 := rfl
@[simp] theorem State.reset_cfgH : State.reset.cfgH = 192 := rfl
@[simp] theorem State.reset_imgW : State.reset.imgW = 0 := rfl
@[simp] theorem State.reset_imgH : State.reset.imgH = 0 := rfl
@[simp] theorem State.reset_posY : State.reset.posY = 0 := rfl
@[simp] theorem State.reset_posG : State.reset.posG = 0 := rfl
@[simp] theorem State.reset_outCnt : State.reset.outCnt = 0 := rfl
@[simp] theorem State.reset_src : State.reset.src = [] := rfl
@[simp] theorem State.reset_out : State.reset.out = [] := rfl
@[simp] theorem State.reset_script : State.reset.script = [] := rfl
@[simp] theorem State.reset_reply : State.reset.reply = .none := rfl
@[simp] theorem State.reset_draws : State.reset.draws = 0 := rfl

-- advance: only the scan position
@[simp] theorem State.advance_phase (n : Nat) : (s.advance n).phase = s.phase := by unfold State.advance; split <;> rfl
@[simp] theorem State.advance_errcode (n : Nat) : (s.advance n).errcode = s.errcode := by unfold State.advance; split <;> rfl
@[simp] theorem State.advance_mode (n : Nat) : (s.advance n).mode = s.mode := by unfold State.advance; split <;> rfl
@[simp] theorem State.advance_palsel (n : Nat) : (s.advance n).palsel = s.palsel := by unfold State.advance; split <;> rfl
@[simp] theorem State.advance_cfgW (n : Nat) : (s.advance n).cfgW = s.cfgW := by unfold State.advance; split <;> rfl
@[simp] theorem State.advance_cfgH (n : Nat) : (s.advance n).cfgH = s.cfgH := by unfold State.advance; split <;> rfl
@[simp] theorem State.advance_imgW (n : Nat) : (s.advance n).imgW = s.imgW := by unfold State.advance; split <;> rfl
@[simp] theorem State.advance_imgH (n : Nat) : (s.advance n).imgH = s.imgH := by unfold State.advance; split <;> rfl
@[simp] theorem State.advance_outCnt (n : Nat) : (s.advance n).outCnt = s.outCnt := by unfold State.advance; split <;> rfl
@[simp] theorem State.advance_src (n : Nat) : (s.advance n).src = s.src := by unfold State.advance; split <;> rfl
@[simp] theorem State.advance_out (n : Nat) : (s.advance n).out = s.out := by unfold State.advance; split <;> rfl
@[simp] theorem State.advance_script (n : Nat) : (s.advance n).script = s.script := by unfold State.advance; split <;> rfl
@[simp] theorem State.advance_reply (n : Nat) : (s.advance n).reply = s.reply := by unfold State.advance; split <;> rfl
@[simp] theorem State.advance_draws (n : Nat) : (s.advance n).draws = s.draws := by unfold State.advance; split <;> rfl

theorem State.advance_posY (n : Nat) :
    (s.advance n).posY = if s.posG.toNat + 1 < n then s.posY else s.posY + 1 := by
  unfold State.advance; split <;> rfl

theorem State.advance_posG (n : Nat) :
    (s.advance n).posG = if s.posG.toNat + 1 < n then s.posG + 1 else 0 := by
  unfold State.advance; split <;> rfl

-- finishAtEnd: only PHASE
@[simp] theorem State.finishAtEnd_errcode : s.finishAtEnd.errcode = s.errcode := by unfold State.finishAtEnd; split <;> rfl
@[simp] theorem State.finishAtEnd_mode : s.finishAtEnd.mode = s.mode := by unfold State.finishAtEnd; split <;> rfl
@[simp] theorem State.finishAtEnd_palsel : s.finishAtEnd.palsel = s.palsel := by unfold State.finishAtEnd; split <;> rfl
@[simp] theorem State.finishAtEnd_cfgW : s.finishAtEnd.cfgW = s.cfgW := by unfold State.finishAtEnd; split <;> rfl
@[simp] theorem State.finishAtEnd_cfgH : s.finishAtEnd.cfgH = s.cfgH := by unfold State.finishAtEnd; split <;> rfl
@[simp] theorem State.finishAtEnd_imgW : s.finishAtEnd.imgW = s.imgW := by unfold State.finishAtEnd; split <;> rfl
@[simp] theorem State.finishAtEnd_imgH : s.finishAtEnd.imgH = s.imgH := by unfold State.finishAtEnd; split <;> rfl
@[simp] theorem State.finishAtEnd_posY : s.finishAtEnd.posY = s.posY := by unfold State.finishAtEnd; split <;> rfl
@[simp] theorem State.finishAtEnd_posG : s.finishAtEnd.posG = s.posG := by unfold State.finishAtEnd; split <;> rfl
@[simp] theorem State.finishAtEnd_outCnt : s.finishAtEnd.outCnt = s.outCnt := by unfold State.finishAtEnd; split <;> rfl
@[simp] theorem State.finishAtEnd_src : s.finishAtEnd.src = s.src := by unfold State.finishAtEnd; split <;> rfl
@[simp] theorem State.finishAtEnd_out : s.finishAtEnd.out = s.out := by unfold State.finishAtEnd; split <;> rfl
@[simp] theorem State.finishAtEnd_script : s.finishAtEnd.script = s.script := by unfold State.finishAtEnd; split <;> rfl
@[simp] theorem State.finishAtEnd_reply : s.finishAtEnd.reply = s.reply := by unfold State.finishAtEnd; split <;> rfl
@[simp] theorem State.finishAtEnd_draws : s.finishAtEnd.draws = s.draws := by unfold State.finishAtEnd; split <;> rfl

theorem State.finishAtEnd_phase :
    s.finishAtEnd.phase = if s.posY.toNat = s.h ∧ s.posG = 0 then .done else s.phase := by
  unfold State.finishAtEnd; split <;> rfl

/-- A configuration write in RUN is ignored. -/
theorem State.configure_run (u : State) (h : s.phase = .run) : s.configure u = s := if_pos h

/-- A configuration write outside RUN is done. -/
theorem State.configure_not_run (u : State) (h : s.phase ≠ .run) : s.configure u = u := if_neg h

end Sys2Proof.Machine
end

