-- ==== Sys2Proof/Laws/Ops.lean ====
section
/-! SUPPORT. One lemma for each shared operation that says once what it can do; the provers cite these instead of unfolding. -/

namespace Sys2Proof.Machine

/-- A 2-bit value is 0, 1, 2 or 3. -/
theorem two_bits (b : BitVec 2) : b = 0 ∨ b = 1 ∨ b = 2 ∨ b = 3 := by
  revert b; decide

/-- A 1-bit value is 0 or 1. -/
theorem one_bit (b : BitVec 1) : b = 0 ∨ b = 1 := by
  revert b; decide

-- The selector (30_encoding.md R57).

theorem selectedOp_iff (mode palsel : BitVec 2) (op : EncOp) :
    selectedOp mode palsel = some op ↔ Selects mode palsel op := by
  rcases two_bits mode with rfl | rfl | rfl | rfl <;> rcases two_bits palsel with rfl | rfl | rfl | rfl <;>
    simp [selectedOp, Selects, params, eq_comm]

theorem op_iff (s : State) (op : EncOp) : s.op = some op ↔ Selects s.mode s.palsel op :=
  selectedOp_iff s.mode s.palsel op

/-- The stride of the selected operation is the one the rules write (44_encoder.md R107). -/
theorem stride_eq_spec {mode palsel : BitVec 2} {op : EncOp} (h : Selects mode palsel op) (w : Nat) :
    stride op w = specStride mode w := by
  rcases h with ⟨rfl, -, rfl⟩ | ⟨rfl, -, rfl⟩ | ⟨rfl, rfl⟩ <;>
    simp [stride, stride1, stride4, mergedWidth, specStride]

/-- The sizes check of an operation agrees with R105. -/
theorem sizesValid_iff {mode palsel : BitVec 2} {op : EncOp} (h : Selects mode palsel op) (w hh : Nat) :
    sizesValid op w hh = true ↔ ConfigLegal mode palsel w hh := by
  rcases h with ⟨rfl, rfl, rfl⟩ | ⟨rfl, rfl, rfl⟩ | ⟨rfl, rfl⟩ <;>
    simp only [sizesValid, Bool.and_eq_true, decide_eq_true_eq] <;>
    simp [ConfigLegal, params, and_assoc]

/-- A legal configuration selects an operation. -/
theorem selects_of_legal {mode palsel : BitVec 2} {w h : Nat} (hl : ConfigLegal mode palsel w h) :
    ∃ op, Selects mode palsel op := by
  obtain ⟨hm, -, -, -, -, hp⟩ := hl
  rcases hm with rfl | rfl
  · rcases hp with hc | ⟨rfl | rfl, -⟩
    · exact absurd hc (by decide)
    · exact ⟨_, Or.inl ⟨rfl, rfl, rfl⟩⟩
    · exact ⟨_, Or.inr (Or.inl ⟨rfl, rfl, rfl⟩)⟩
  · exact ⟨_, Or.inr (Or.inr ⟨rfl, rfl⟩)⟩

/-- `ConfigValid` is what 44_encoder.md R105 writes. -/
theorem configValid_iff (s : State) :
    configValid s = true ↔ ConfigLegal s.mode s.palsel s.cfgW.toNat s.cfgH.toNat := by
  unfold configValid
  cases hop : s.op with
  | none =>
    simp only [Bool.false_eq_true, false_iff]
    intro hl
    obtain ⟨op, ho⟩ := selects_of_legal hl
    simp [(op_iff s op).mpr ho] at hop
  | some op => exact sizesValid_iff ((op_iff s op).mp hop) s.w s.h

/-- `DimMatch` is what 44_encoder.md R106 writes. -/
theorem dimMatch_iff (s : State) : dimMatch s = true ↔ s.imgW = s.cfgW ∧ s.imgH = s.cfgH := by
  simp [dimMatch]

-- Start() (44_encoder.md R111).

/-- Everything `Start()` can do: it is ignored, it raises one of the two errors, or it is accepted. -/
theorem start_cases (s : State) :
    (s.phase = .run ∧ start s = s) ∨
    (s.phase ≠ .run ∧ configValid s = false ∧ start s = s.emptyStream.raise .invalidConfiguration) ∨
    (s.phase ≠ .run ∧ configValid s = true ∧ dimMatch s = false ∧
      start s = s.emptyStream.raise .dimensionMismatch) ∨
    (s.phase ≠ .run ∧ configValid s = true ∧ dimMatch s = true ∧ start s = s.emptyStream.accept) := by
  unfold start
  by_cases hr : s.phase = .run
  · simp [hr]
  · cases hc : configValid s <;> cases hd : dimMatch s <;> simp [hr]

@[simp] theorem start_mode (s : State) : (start s).mode = s.mode := by
  rcases start_cases s with ⟨_, h⟩ | ⟨_, _, h⟩ | ⟨_, _, _, h⟩ | ⟨_, _, _, h⟩ <;> rw [h] <;> rfl
@[simp] theorem start_palsel (s : State) : (start s).palsel = s.palsel := by
  rcases start_cases s with ⟨_, h⟩ | ⟨_, _, h⟩ | ⟨_, _, _, h⟩ | ⟨_, _, _, h⟩ <;> rw [h] <;> rfl
@[simp] theorem start_cfgW (s : State) : (start s).cfgW = s.cfgW := by
  rcases start_cases s with ⟨_, h⟩ | ⟨_, _, h⟩ | ⟨_, _, _, h⟩ | ⟨_, _, _, h⟩ <;> rw [h] <;> rfl
@[simp] theorem start_cfgH (s : State) : (start s).cfgH = s.cfgH := by
  rcases start_cases s with ⟨_, h⟩ | ⟨_, _, h⟩ | ⟨_, _, _, h⟩ | ⟨_, _, _, h⟩ <;> rw [h] <;> rfl
@[simp] theorem start_imgW (s : State) : (start s).imgW = s.imgW := by
  rcases start_cases s with ⟨_, h⟩ | ⟨_, _, h⟩ | ⟨_, _, _, h⟩ | ⟨_, _, _, h⟩ <;> rw [h] <;> rfl
@[simp] theorem start_imgH (s : State) : (start s).imgH = s.imgH := by
  rcases start_cases s with ⟨_, h⟩ | ⟨_, _, h⟩ | ⟨_, _, _, h⟩ | ⟨_, _, _, h⟩ <;> rw [h] <;> rfl
@[simp] theorem start_src (s : State) : (start s).src = s.src := by
  rcases start_cases s with ⟨_, h⟩ | ⟨_, _, h⟩ | ⟨_, _, _, h⟩ | ⟨_, _, _, h⟩ <;> rw [h] <;> rfl
@[simp] theorem start_out (s : State) : (start s).out = s.out := by
  rcases start_cases s with ⟨_, h⟩ | ⟨_, _, h⟩ | ⟨_, _, _, h⟩ | ⟨_, _, _, h⟩ <;> rw [h] <;> rfl
@[simp] theorem start_script (s : State) : (start s).script = s.script := by
  rcases start_cases s with ⟨_, h⟩ | ⟨_, _, h⟩ | ⟨_, _, _, h⟩ | ⟨_, _, _, h⟩ <;> rw [h] <;> rfl
@[simp] theorem start_reply (s : State) : (start s).reply = s.reply := by
  rcases start_cases s with ⟨_, h⟩ | ⟨_, _, h⟩ | ⟨_, _, _, h⟩ | ⟨_, _, _, h⟩ <;> rw [h] <;> rfl
@[simp] theorem start_draws (s : State) : (start s).draws = s.draws := by
  rcases start_cases s with ⟨_, h⟩ | ⟨_, _, h⟩ | ⟨_, _, _, h⟩ | ⟨_, _, _, h⟩ <;> rw [h] <;> rfl

-- One group step (44_encoder.md R112).

@[simp] theorem groupStep_errcode (op : EncOp) (s : State) : (groupStep op s).errcode = s.errcode := by
  simp [groupStep]
@[simp] theorem groupStep_mode (op : EncOp) (s : State) : (groupStep op s).mode = s.mode := by
  simp [groupStep]
@[simp] theorem groupStep_palsel (op : EncOp) (s : State) : (groupStep op s).palsel = s.palsel := by
  simp [groupStep]
@[simp] theorem groupStep_cfgW (op : EncOp) (s : State) : (groupStep op s).cfgW = s.cfgW := by
  simp [groupStep]
@[simp] theorem groupStep_cfgH (op : EncOp) (s : State) : (groupStep op s).cfgH = s.cfgH := by
  simp [groupStep]
@[simp] theorem groupStep_imgW (op : EncOp) (s : State) : (groupStep op s).imgW = s.imgW := by
  simp [groupStep]
@[simp] theorem groupStep_imgH (op : EncOp) (s : State) : (groupStep op s).imgH = s.imgH := by
  simp [groupStep]
@[simp] theorem groupStep_src (op : EncOp) (s : State) : (groupStep op s).src = s.src := by
  simp [groupStep]
@[simp] theorem groupStep_script (op : EncOp) (s : State) : (groupStep op s).script = s.script := by
  simp [groupStep]
@[simp] theorem groupStep_reply (op : EncOp) (s : State) : (groupStep op s).reply = s.reply := by
  simp [groupStep]
@[simp] theorem groupStep_draws (op : EncOp) (s : State) : (groupStep op s).draws = s.draws := by
  simp [groupStep]

theorem groupStep_outCnt (op : EncOp) (s : State) : (groupStep op s).outCnt = s.outCnt + 1 := by
  simp [groupStep]

theorem groupStep_out (op : EncOp) (s : State) :
    (groupStep op s).out =
      Memory.write s.out s.outCnt.toNat (groupByteOf s.src op s.w s.posY.toNat s.posG.toNat) := by
  simp [groupStep]

theorem groupStep_posY (op : EncOp) (s : State) :
    (groupStep op s).posY = if s.posG.toNat + 1 < stride op s.w then s.posY else s.posY + 1 := by
  rw [groupStep, State.finishAtEnd_posY, State.advance_posY]; rfl

theorem groupStep_posG (op : EncOp) (s : State) :
    (groupStep op s).posG = if s.posG.toNat + 1 < stride op s.w then s.posG + 1 else 0 := by
  rw [groupStep, State.finishAtEnd_posG, State.advance_posG]; rfl

theorem groupStep_phase (op : EncOp) (s : State) :
    (groupStep op s).phase =
      if (groupStep op s).posY.toNat = s.h ∧ (groupStep op s).posG = 0 then .done else s.phase := by
  simp [groupStep, State.finishAtEnd_phase, State.h]

/-- A successful check of a RUN state gives the selected operation and the ranges. -/
theorem runReady_some {s : State} {op : EncOp} (h : runReady s = some op) :
    s.op = some op ∧ sizesValid op s.w s.h = true ∧ s.posY.toNat < s.h ∧ s.posG.toNat < stride op s.w ∧
      s.outCnt.toNat < Config.outBytes := by
  unfold runReady at h
  split at h
  · rename_i op' hop
    split at h
    · rename_i hc
      simp only [Bool.and_eq_true, decide_eq_true_eq] at hc
      obtain ⟨⟨⟨h1, h2⟩, h3⟩, h4⟩ := hc
      cases h
      exact ⟨hop, h1, h2, h3, h4⟩
    · cases h
  · cases h

/-- The RUN states in which a group step is taken, as the rules write them. -/
theorem runReady_iff (s : State) (op : EncOp) :
    runReady s = some op ↔
      Selects s.mode s.palsel op ∧ ConfigLegal s.mode s.palsel s.cfgW.toNat s.cfgH.toNat ∧
        s.posY.toNat < s.cfgH.toNat ∧ s.posG.toNat < specStride s.mode s.cfgW.toNat ∧ s.outCnt.toNat < Config.outBytes := by
  constructor
  · intro h
    obtain ⟨h1, h2, h3, h4, h5⟩ := runReady_some h
    have ho := (op_iff s op).mp h1
    exact ⟨ho, (sizesValid_iff ho _ _).mp h2, h3, stride_eq_spec ho _ ▸ h4, h5⟩
  · rintro ⟨ho, h2, h3, h4, h5⟩
    rw [← stride_eq_spec ho] at h4
    simp [runReady, (op_iff s op).mpr ho, (sizesValid_iff ho _ _).mpr h2, h3, h4, h5]

/-- Everything `Step()` can answer with a next state: the group step of the selected operation in RUN, nothing otherwise. -/
theorem seqStep_next {s t : State} (h : seqStep s = .next t) :
    (s.phase = .run ∧ ∃ op, runReady s = some op ∧ t = groupStep op s) ∨ (s.phase ≠ .run ∧ t = s) := by
  unfold seqStep at h
  split at h
  · rename_i hr
    split at h
    · rename_i op hop
      cases h
      exact .inl ⟨hr, op, hop, rfl⟩
    · cases h
  · rename_i hr
    cases h
    exact .inr ⟨hr, rfl⟩

-- A run of group steps.

/-- n + 1 group steps are n group steps and one more. -/
theorem groupSteps_succ (op : EncOp) (n : Nat) (s : State) :
    groupSteps op (n + 1) s = groupStep op (groupSteps op n s) := by
  induction n generalizing s with
  | zero => rfl
  | succ n ih => rw [groupSteps, ih]; rfl

@[simp] theorem groupSteps_errcode (op : EncOp) (n : Nat) (s : State) : (groupSteps op n s).errcode = s.errcode := by
  induction n with
  | zero => rfl
  | succ n ih => rw [groupSteps_succ, groupStep_errcode, ih]
@[simp] theorem groupSteps_mode (op : EncOp) (n : Nat) (s : State) : (groupSteps op n s).mode = s.mode := by
  induction n with
  | zero => rfl
  | succ n ih => rw [groupSteps_succ, groupStep_mode, ih]
@[simp] theorem groupSteps_palsel (op : EncOp) (n : Nat) (s : State) : (groupSteps op n s).palsel = s.palsel := by
  induction n with
  | zero => rfl
  | succ n ih => rw [groupSteps_succ, groupStep_palsel, ih]
@[simp] theorem groupSteps_cfgW (op : EncOp) (n : Nat) (s : State) : (groupSteps op n s).cfgW = s.cfgW := by
  induction n with
  | zero => rfl
  | succ n ih => rw [groupSteps_succ, groupStep_cfgW, ih]
@[simp] theorem groupSteps_cfgH (op : EncOp) (n : Nat) (s : State) : (groupSteps op n s).cfgH = s.cfgH := by
  induction n with
  | zero => rfl
  | succ n ih => rw [groupSteps_succ, groupStep_cfgH, ih]
@[simp] theorem groupSteps_imgW (op : EncOp) (n : Nat) (s : State) : (groupSteps op n s).imgW = s.imgW := by
  induction n with
  | zero => rfl
  | succ n ih => rw [groupSteps_succ, groupStep_imgW, ih]
@[simp] theorem groupSteps_imgH (op : EncOp) (n : Nat) (s : State) : (groupSteps op n s).imgH = s.imgH := by
  induction n with
  | zero => rfl
  | succ n ih => rw [groupSteps_succ, groupStep_imgH, ih]
@[simp] theorem groupSteps_src (op : EncOp) (n : Nat) (s : State) : (groupSteps op n s).src = s.src := by
  induction n with
  | zero => rfl
  | succ n ih => rw [groupSteps_succ, groupStep_src, ih]
@[simp] theorem groupSteps_script (op : EncOp) (n : Nat) (s : State) : (groupSteps op n s).script = s.script := by
  induction n with
  | zero => rfl
  | succ n ih => rw [groupSteps_succ, groupStep_script, ih]
@[simp] theorem groupSteps_reply (op : EncOp) (n : Nat) (s : State) : (groupSteps op n s).reply = s.reply := by
  induction n with
  | zero => rfl
  | succ n ih => rw [groupSteps_succ, groupStep_reply, ih]
@[simp] theorem groupSteps_draws (op : EncOp) (n : Nat) (s : State) : (groupSteps op n s).draws = s.draws := by
  induction n with
  | zero => rfl
  | succ n ih => rw [groupSteps_succ, groupStep_draws, ih]

/-- Everything an operation of the selector map can do: it is ignored in RUN, its START fails, or it runs to its end. -/
theorem runSelected_cases (m p : BitVec 2) (s : State) :
    (s.phase = .run ∧ runSelected m p s = s) ∨
    (s.phase ≠ .run ∧ configValid (s.select m p) = false ∧
      runSelected m p s = (s.select m p).emptyStream.raise .invalidConfiguration) ∨
    (s.phase ≠ .run ∧ configValid (s.select m p) = true ∧ dimMatch (s.select m p) = false ∧
      runSelected m p s = (s.select m p).emptyStream.raise .dimensionMismatch) ∨
    (s.phase ≠ .run ∧ configValid (s.select m p) = true ∧ dimMatch (s.select m p) = true ∧
      runSelected m p s = finishRun (s.select m p).emptyStream.accept) := by
  by_cases hr : s.phase = .run
  · simp [runSelected, hr]
  · have hr' : (s.select m p).phase ≠ .run := hr
    rcases start_cases (s.select m p) with ⟨h, _⟩ | ⟨_, hc, h⟩ | ⟨_, hc, hd, h⟩ | ⟨_, hc, hd, h⟩
    · exact absurd h hr'
    all_goals simp [runSelected, hr, h, hc]
    all_goals simp [hd]

/-- A run of the operation the registers select takes Total group steps. -/
theorem finishRun_eq {s : State} {op : EncOp} (h : s.op = some op) :
    finishRun s = groupSteps op (total op s.w s.h) s := by
  simp [finishRun, h]

@[simp] theorem finishRun_errcode (s : State) : (finishRun s).errcode = s.errcode := by
  unfold finishRun; split <;> simp
@[simp] theorem finishRun_mode (s : State) : (finishRun s).mode = s.mode := by
  unfold finishRun; split <;> simp
@[simp] theorem finishRun_palsel (s : State) : (finishRun s).palsel = s.palsel := by
  unfold finishRun; split <;> simp
@[simp] theorem finishRun_cfgW (s : State) : (finishRun s).cfgW = s.cfgW := by
  unfold finishRun; split <;> simp
@[simp] theorem finishRun_cfgH (s : State) : (finishRun s).cfgH = s.cfgH := by
  unfold finishRun; split <;> simp
@[simp] theorem finishRun_imgW (s : State) : (finishRun s).imgW = s.imgW := by
  unfold finishRun; split <;> simp
@[simp] theorem finishRun_imgH (s : State) : (finishRun s).imgH = s.imgH := by
  unfold finishRun; split <;> simp
@[simp] theorem finishRun_src (s : State) : (finishRun s).src = s.src := by
  unfold finishRun; split <;> simp
@[simp] theorem finishRun_script (s : State) : (finishRun s).script = s.script := by
  unfold finishRun; split <;> simp
@[simp] theorem finishRun_reply (s : State) : (finishRun s).reply = s.reply := by
  unfold finishRun; split <;> simp
@[simp] theorem finishRun_draws (s : State) : (finishRun s).draws = s.draws := by
  unfold finishRun; split <;> simp

-- The units (log 8).

/-- The palette of the FourColor units, as the rules write it. -/
theorem activePalette_iff (s : State) (P : Palette) : activePalette s = some P ↔ SelectsFourColor s P := by
  unfold activePalette State.op SelectsFourColor
  rcases two_bits s.mode with hm | hm | hm | hm <;> rcases two_bits s.palsel with hp | hp | hp | hp <;>
    simp [hm, hp, selectedOp, params, eq_comm]

/-- The Monochrome units are active exactly when MODE = 1. -/
theorem monoActive_iff (s : State) : monoActive s = true ↔ SelectsMonochrome s := by
  unfold monoActive State.op SelectsMonochrome
  rcases two_bits s.mode with hm | hm | hm | hm <;> rcases two_bits s.palsel with hp | hp | hp | hp <;>
    simp [hm, hp, selectedOp]

/-- The rows CODE4 to ROW1 are defined for: those of the image, in a legal configuration. -/
theorem rowInImage_iff (s : State) (y : BitVec 8) :
    rowInImage s y = true ↔
      ConfigLegal s.mode s.palsel s.cfgW.toNat s.cfgH.toNat ∧ y.toNat < s.cfgH.toNat := by
  unfold rowInImage
  rw [Bool.and_eq_true, configValid_iff, decide_eq_true_eq]

/-- An active FourColor unit gives its result. -/
theorem unit4_active {s : State} {P : Palette} (h : SelectsFourColor s P) (f : Palette → State) :
    unit4 s f = .next (f P) := by
  simp [unit4, (activePalette_iff s P).mpr h]

/-- Everything a FourColor unit can answer with. -/
theorem unit4_next {s t : State} {f : Palette → State} (h : unit4 s f = .next t) :
    (∃ P, SelectsFourColor s P ∧ t = f P) ∨ t = s := by
  unfold unit4 at h
  split at h
  · rename_i P hP
    cases h
    exact .inl ⟨P, (activePalette_iff s P).mp hP, rfl⟩
  · cases h
    exact .inr rfl

/-- An active Monochrome unit gives its result. -/
theorem unit1_active {s : State} (h : SelectsMonochrome s) (r : State) : unit1 s r = .next r := by
  simp [unit1, (monoActive_iff s).mpr h]

/-- Everything a Monochrome unit can answer with. -/
theorem unit1_next {s t r : State} (h : unit1 s r = .next t) : (SelectsMonochrome s ∧ t = r) ∨ t = s := by
  unfold unit1 at h
  split at h
  · rename_i hm
    cases h
    exact .inl ⟨(monoActive_iff s).mp hm, rfl⟩
  · cases h
    exact .inr rfl

/-- A unit's answer changes only the reply and the count of free values. -/
theorem inRangeOr_frame (b : Bool) (s : State) (r f : Reply) (n : Nat) :
    ∃ r' n', inRangeOr b s r f n = (s.withReply r').drew n' := by
  unfold inRangeOr
  split
  · exact ⟨r, 0, rfl⟩
  · exact ⟨f, n, rfl⟩

-- The step.

/-- With a request in front that decodes, the step is exec of the operation with the request taken. -/
theorem step_of_request {s : State} {r : Request} {rest : List Request} {i : Instr}
    (hs : s.script = r :: rest) (hd : decode r = .ok i) : step s = exec i { s with script := rest } := by
  simp [step, hs, hd]

/-- Everything the step can do. -/
theorem step_cases (s : State) :
    (s.script = [] ∧ s.phase = .run ∧ step s = exec .step s) ∨
    (s.script = [] ∧ s.phase ≠ .run ∧ step s = .next s) ∨
    (∃ r rest i, s.script = r :: rest ∧ decode r = .ok i ∧ step s = exec i { s with script := rest }) ∨
    (∃ r rest e, s.script = r :: rest ∧ decode r = .error e ∧ step s = .refused (.undecodable e)) := by
  cases hs : s.script with
  | nil =>
    by_cases hr : s.phase = .run
    · exact .inl ⟨rfl, hr, by simp [step, hs, hr]⟩
    · exact .inr (.inl ⟨rfl, hr, by simp [step, hs, hr]⟩)
  | cons r rest =>
    cases hd : decode r with
    | ok i => exact .inr (.inr (.inl ⟨r, rest, i, rfl, hd, step_of_request hs hd⟩))
    | error e => exact .inr (.inr (.inr ⟨r, rest, e, rfl, hd, by simp [step, hs, hd]⟩))

end Sys2Proof.Machine
end

