-- ==== Sys2Proof/Laws/Encoding.lean ====
section
/-! SUPPORT. The words of host transactions as numbers. -/

namespace Sys2Proof.Machine

/-- A 3-bit value is one of the eight. -/
theorem three_bits (b : BitVec 3) :
    b = 0 ∨ b = 1 ∨ b = 2 ∨ b = 3 ∨ b = 4 ∨ b = 5 ∨ b = 6 ∨ b = 7 := by
  revert b; decide

/-- `T = (we << 20) | (regno << 16) | wdata` (30_encoding.md R58). -/
theorem hostWord_toNat (we : BitVec 1) (regno : BitVec 4) (wdata : RegWord) :
    (hostWord we regno wdata).toNat = we.toNat * 2 ^ 20 + regno.toNat * 2 ^ 16 + wdata.toNat := by
  have h1 := we.isLt
  have h2 := regno.isLt
  have h3 := wdata.isLt
  show (we ++ regno ++ wdata).toNat = _
  have e1 := Nat.shiftLeft_add_eq_or_of_lt h3 (we ++ regno).toNat
  have e2 := Nat.shiftLeft_add_eq_or_of_lt h2 we.toNat
  rw [BitVec.toNat_append, ← e1, BitVec.toNat_append, ← e2, Nat.shiftLeft_eq, Nat.shiftLeft_eq]
  omega

/-- The bits above the write data of a transaction word: we and regno. -/
theorem hostWord_row (we : BitVec 1) (regno : BitVec 4) (wdata : RegWord) :
    (hostWord we regno wdata).toNat / 65536 % 32 = we.toNat * 16 + regno.toNat := by
  have h1 := we.isLt
  have h2 := regno.isLt
  have h3 := wdata.isLt
  rw [hostWord_toNat]
  omega

/-- The mask of a row that fixes we and regno. -/
theorem and_row_mask (w : Nat) : w &&& 0x1F0000 = w / 65536 % 32 * 65536 := by
  have h : (0x1F0000 : Nat) = (2 ^ 5 - 1) <<< 16 := by decide
  have h32 : w / 65536 % 32 = (w >>> 16) &&& (2 ^ 5 - 1) := by
    rw [Nat.and_two_pow_sub_one_eq_mod, Nat.shiftRight_eq_div_pow]
  rw [h32, h, show (65536 : Nat) = 2 ^ 16 from rfl, ← Nat.shiftLeft_eq]
  apply Nat.eq_of_testBit_eq
  intro i
  simp only [Nat.testBit_and, Nat.testBit_shiftLeft, Nat.testBit_shiftRight]
  by_cases hi : 16 ≤ i
  · simp [hi]
  · simp [hi]

end Sys2Proof.Machine
end

