-- ==== Sys2Proof/Laws/Exec.lean ====
section
/-! SUPPORT. Everything one operation of the block can answer with, said once: the provers case on `exec_cases` in place of
unfolding the meanings. -/

namespace Sys2Proof.Machine

/-- What a FourColor unit changes, if every result of its changes only that. -/
theorem unit4_frame {s t : State} {f : Palette → State} (hf : ∀ P, ∃ r n, f P = (s.withReply r).drew n)
    (h : unit4 s f = .next t) : ∃ r n, t = (s.withReply r).drew n := by
  rcases unit4_next h with ⟨P, _, rfl⟩ | rfl
  · exact hf P
  · exact ⟨t.reply, 0, rfl⟩

/-- What a Monochrome unit changes, if its result changes only that. -/
theorem unit1_frame {s t u : State} (hf : ∃ r n, u = (s.withReply r).drew n)
    (h : unit1 s u = .next t) : ∃ r n, t = (s.withReply r).drew n := by
  rcases unit1_next h with ⟨_, rfl⟩ | rfl
  · exact hf
  · exact ⟨t.reply, 0, rfl⟩

/-- A reading operation hands over a value and draws free values, and that is all. -/
theorem exec_read_frame {s t : State} {i : Instr} (hi : isRead i = true) (h : exec i s = .next t) :
    ∃ r n, t = (s.withReply r).drew n := by
  cases i <;> try (exact absurd hi Bool.false_ne_true)
  all_goals first
    | (obtain rfl := Host.Outcome.next.inj h; exact ⟨.rdata _, 0, rfl⟩)
    | exact unit4_frame (fun P => ⟨.distance _, 0, rfl⟩) h
    | exact unit4_frame (fun P => ⟨.code _, 0, rfl⟩) h
    | exact unit4_frame (fun P => ⟨.pixel _, 0, rfl⟩) h
    | exact unit4_frame (fun P => inRangeOr_frame _ _ _ _ _) h
    | exact unit1_frame ⟨.luma _, 0, rfl⟩ h
    | exact unit1_frame ⟨.bit _, 0, rfl⟩ h
    | exact unit1_frame (inRangeOr_frame _ _ _ _ _) h
    | skip
  change execOutRead _ s = _ at h
  unfold execOutRead at h
  split at h
  · cases h; exact ⟨_, _, rfl⟩
  · cases h

/-- A configuration write stores outside RUN, or does nothing. -/
theorem configure_next {s t u : State} (h : (Host.Outcome.next (s.configure u) : Host.Outcome State Fault Refusal) = .next t) :
    (s.phase ≠ .run ∧ t = u) ∨ t = s := by
  cases h
  by_cases hr : s.phase = .run
  · exact .inr (State.configure_run _ _ hr)
  · exact .inl ⟨hr, State.configure_not_run _ _ hr⟩

/-- Everything an operation can do when it answers a next state. -/
theorem exec_cases {s t : State} {i : Instr} (h : exec i s = .next t) :
    (isRead i = true ∧ ∃ r n, t = (s.withReply r).drew n) ∨
    (i = .start ∧ t = start s) ∨ t = s ∨
    (∃ m p, i.format = .sel ∧ t = runSelected m p s) ∨
    (s.phase ≠ .run ∧ ((∃ d, i = .wrMode d ∧ t = { s with mode := d }) ∨
      (∃ d, i = .wrPalsel d ∧ t = { s with palsel := d }) ∨
      (∃ d, i = .wrCfgW d ∧ t = { s with cfgW := d }) ∨ (∃ d, i = .wrCfgH d ∧ t = { s with cfgH := d }) ∨
      (∃ d, i = .wrImgW d ∧ t = { s with imgW := d }) ∨ (∃ d, i = .wrImgH d ∧ t = { s with imgH := d }))) ∨
    (i = .step ∧ s.phase = .run ∧ ∃ op, runReady s = some op ∧ t = groupStep op s) ∨
    (∃ a v, i = .srcWrite a v ∧ a.toNat < Config.srcBytes ∧ t = { s with src := Memory.write s.src a.toNat v }) ∨
    (i = .reset ∧ t = resetBlock s) := by
  by_cases hi : isRead i = true
  · exact .inl ⟨hi, exec_read_frame hi h⟩
  · cases i <;> try (exact absurd rfl hi)
    case start => cases h; simp
    case wrMode d => rcases configure_next h with ⟨h1, h2⟩ | h2 <;> simp [*]
    case wrPalsel d => rcases configure_next h with ⟨h1, h2⟩ | h2 <;> simp [*]
    case wrCfgW d => rcases configure_next h with ⟨h1, h2⟩ | h2 <;> simp [*]
    case wrCfgH d => rcases configure_next h with ⟨h1, h2⟩ | h2 <;> simp [*]
    case wrImgW d => rcases configure_next h with ⟨h1, h2⟩ | h2 <;> simp [*]
    case wrImgH d => rcases configure_next h with ⟨h1, h2⟩ | h2 <;> simp [*]
    case enc4A => cases h; exact .inr (.inr (.inr (.inl ⟨_, _, rfl, rfl⟩)))
    case enc4B => cases h; exact .inr (.inr (.inr (.inl ⟨_, _, rfl, rfl⟩)))
    case enc1 => cases h; exact .inr (.inr (.inr (.inl ⟨_, _, rfl, rfl⟩)))
    case selRsvdPal => cases h; exact .inr (.inr (.inr (.inl ⟨_, _, rfl, rfl⟩)))
    case selRsvdMode => cases h; exact .inr (.inr (.inr (.inl ⟨_, _, rfl, rfl⟩)))
    case step =>
      rcases seqStep_next h with ⟨h1, h2⟩ | ⟨h1, h2⟩
      · exact .inr (.inr (.inr (.inr (.inr (.inl ⟨rfl, h1, h2⟩)))))
      · exact .inr (.inr (.inl h2))
    case srcWrite a v =>
      change execSrcWrite a v s = _ at h
      unfold execSrcWrite at h
      split at h
      · rename_i ha
        cases h
        exact .inr (.inr (.inr (.inr (.inr (.inr (.inl ⟨a, v, rfl, ha, rfl⟩))))))
      · cases h
    case reset => cases h; simp
    all_goals (cases h; exact .inr (.inr (.inl rfl)))

/-- No operation is refused: exec answers a next state or a fault. -/
theorem exec_ne_refused (i : Instr) (s : State) (e : Refusal) : exec i s ≠ .refused e := by
  have h4 : ∀ f, unit4 s f ≠ .refused e := fun f => by unfold unit4; split <;> nofun
  have h1 : ∀ r, unit1 s r ≠ .refused e := fun r => by unfold unit1; split <;> nofun
  cases i
  case step => show seqStep s ≠ _; unfold seqStep; repeat' split
               all_goals nofun
  case outRead k => show execOutRead k s ≠ _; unfold execOutRead; split <;> nofun
  case srcWrite a v => show execSrcWrite a v s ≠ _; unfold execSrcWrite; split <;> nofun
  all_goals first
    | exact h4 _
    | exact h1 _
    | nofun

/-- An operation of the selector map leaves SRC and the size registers. -/
theorem runSelected_frame (m p : BitVec 2) (s : State) :
    (runSelected m p s).src = s.src ∧ (runSelected m p s).cfgW = s.cfgW ∧ (runSelected m p s).cfgH = s.cfgH ∧
      (runSelected m p s).imgW = s.imgW ∧ (runSelected m p s).imgH = s.imgH := by
  rcases runSelected_cases m p s with ⟨_, h⟩ | ⟨_, _, h⟩ | ⟨_, _, _, h⟩ | ⟨_, _, _, h⟩ <;> rw [h] <;> simp

/-- One more step of a run of the machine. -/
theorem core_run_succ {M : Host.Core} {n : Nat} {s u : M.State} (h : M.step s = .next u) :
    M.run (n + 1) s = M.run n u := by
  rw [Host.Core.run, h]

/-- The same of the block. -/
theorem core_run_next {n : Nat} {s u : State} (h : step s = .next u) :
    Host.Core.run Sys2Proof.core (n + 1) s = Host.Core.run Sys2Proof.core n u :=
  core_run_succ (M := Sys2Proof.core) h

end Sys2Proof.Machine
end

