-- ==== Sys2Proof/Laws/PerInstr.lean ====
section
/-! SUPPORT. Per-instruction lemmas: an operation's encoding lies in its row of spec/opcode_table.json. -/

namespace Sys2Proof.Laws.EncodesInRow

open Sys2Proof Sys2Proof.Machine

/-- The word that encodes the operation matches its row's mask and match (30_encoding.md R57, R59); an operation of a format
without bits is presented as it is (R50). -/
def Statement (i : Instr) : Prop :=
  match encode i with
  | .host t => i.format = .host ∧ i.matchesWord t.toNat = true
  | .sel w => i.format = .sel ∧ i.matchesWord w.toNat = true
  | .direct j => j = i ∧ (i.format = .unit ∨ i.format = .prim)

theorem rdCtrl : Statement .rdCtrl := by
  exact ⟨rfl, rfl⟩

theorem start : Statement .start := by
  exact ⟨rfl, rfl⟩

theorem wrCtrlNop : Statement .wrCtrlNop := by
  exact ⟨rfl, rfl⟩

theorem rdStatus : Statement .rdStatus := by
  exact ⟨rfl, rfl⟩

theorem wrStatus : Statement .wrStatus := by
  exact ⟨rfl, rfl⟩

theorem rdErrcode : Statement .rdErrcode := by
  exact ⟨rfl, rfl⟩

theorem wrErrcode : Statement .wrErrcode := by
  exact ⟨rfl, rfl⟩

theorem rdMode : Statement .rdMode := by
  exact ⟨rfl, rfl⟩

theorem wrMode (d : BitVec 2) : Statement (.wrMode d) := by
  rcases two_bits d with rfl | rfl | rfl | rfl <;> exact ⟨rfl, rfl⟩

theorem rdPalsel : Statement .rdPalsel := by
  exact ⟨rfl, rfl⟩

theorem wrPalsel (d : BitVec 2) : Statement (.wrPalsel d) := by
  rcases two_bits d with rfl | rfl | rfl | rfl <;> exact ⟨rfl, rfl⟩

theorem rdCfgW : Statement .rdCfgW := by
  exact ⟨rfl, rfl⟩

theorem wrCfgW (d : RegWord) : Statement (.wrCfgW d) := by
  exact ⟨rfl, by simp [Instr.matchesWord, Instr.tableRow, and_row_mask, hostWord_row]⟩

theorem rdCfgH : Statement .rdCfgH := by
  exact ⟨rfl, rfl⟩

theorem wrCfgH (d : RegWord) : Statement (.wrCfgH d) := by
  exact ⟨rfl, by simp [Instr.matchesWord, Instr.tableRow, and_row_mask, hostWord_row]⟩

theorem rdImgW : Statement .rdImgW := by
  exact ⟨rfl, rfl⟩

theorem wrImgW (d : RegWord) : Statement (.wrImgW d) := by
  exact ⟨rfl, by simp [Instr.matchesWord, Instr.tableRow, and_row_mask, hostWord_row]⟩

theorem rdImgH : Statement .rdImgH := by
  exact ⟨rfl, rfl⟩

theorem wrImgH (d : RegWord) : Statement (.wrImgH d) := by
  exact ⟨rfl, by simp [Instr.matchesWord, Instr.tableRow, and_row_mask, hostWord_row]⟩

theorem rdPosY : Statement .rdPosY := by
  exact ⟨rfl, rfl⟩

theorem wrPosY : Statement .wrPosY := by
  exact ⟨rfl, rfl⟩

theorem rdPosG : Statement .rdPosG := by
  exact ⟨rfl, rfl⟩

theorem wrPosG : Statement .wrPosG := by
  exact ⟨rfl, rfl⟩

theorem rdOutCnt : Statement .rdOutCnt := by
  exact ⟨rfl, rfl⟩

theorem wrOutCnt : Statement .wrOutCnt := by
  exact ⟨rfl, rfl⟩

theorem rdRsvd : Statement .rdRsvd := by
  exact ⟨rfl, rfl⟩

theorem wrRsvd : Statement .wrRsvd := by
  exact ⟨rfl, rfl⟩

theorem enc4A : Statement .enc4A := by
  exact ⟨rfl, rfl⟩

theorem enc4B : Statement .enc4B := by
  exact ⟨rfl, rfl⟩

theorem selRsvdPal (p : BitVec 1) : Statement (.selRsvdPal p) := by
  rcases one_bit p with rfl | rfl <;> exact ⟨rfl, rfl⟩

theorem enc1 (p : BitVec 2) : Statement (.enc1 p) := by
  rcases two_bits p with rfl | rfl | rfl | rfl <;> exact ⟨rfl, rfl⟩

theorem selRsvdMode (p : BitVec 3) : Statement (.selRsvdMode p) := by
  rcases three_bits p with rfl | rfl | rfl | rfl | rfl | rfl | rfl | rfl <;> exact ⟨rfl, rfl⟩

theorem dist (p q : Pixel) : Statement (.dist p q) := by
  exact ⟨rfl, by simp [Instr.format]⟩

theorem nearest (p : Pixel) : Statement (.nearest p) := by
  exact ⟨rfl, by simp [Instr.format]⟩

theorem merge (a b : Pixel) : Statement (.merge a b) := by
  exact ⟨rfl, by simp [Instr.format]⟩

theorem code4 (y : BitVec 8) (j : BitVec 7) : Statement (.code4 y j) := by
  exact ⟨rfl, by simp [Instr.format]⟩

theorem group4 (y : BitVec 8) (g : BitVec 6) : Statement (.group4 y g) := by
  exact ⟨rfl, by simp [Instr.format]⟩

theorem row4 (y : BitVec 8) : Statement (.row4 y) := by
  exact ⟨rfl, by simp [Instr.format]⟩

theorem luma (p : Pixel) : Statement (.luma p) := by
  exact ⟨rfl, by simp [Instr.format]⟩

theorem thresh (p : Pixel) : Statement (.thresh p) := by
  exact ⟨rfl, by simp [Instr.format]⟩

theorem group1 (y : BitVec 8) (g : BitVec 6) : Statement (.group1 y g) := by
  exact ⟨rfl, by simp [Instr.format]⟩

theorem row1 (y : BitVec 8) : Statement (.row1 y) := by
  exact ⟨rfl, by simp [Instr.format]⟩

theorem step : Statement .step := by
  exact ⟨rfl, by simp [Instr.format]⟩

theorem outRead (k : BitVec 13) : Statement (.outRead k) := by
  exact ⟨rfl, by simp [Instr.format]⟩

theorem srcWrite (a : BitVec 18) (v : Byte) : Statement (.srcWrite a v) := by
  exact ⟨rfl, by simp [Instr.format]⟩

theorem reset : Statement .reset := by
  exact ⟨rfl, by simp [Instr.format]⟩

end Sys2Proof.Laws.EncodesInRow
end

