-- ==== Sys2Proof/Tests/Slice0.lean ====
section
/-! SUPPORT. The author's tests: the operand checks, words written out from the encoding tables of the spec, single steps with the
values of 95_test_vectors.md, and a witness for the hypotheses of every statement. -/

namespace Sys2Proof.Tests

open Sys2Proof Sys2Proof.Machine

-- Helpers.

/-- The next state of an outcome, if it is one. -/
def nextOf (o : Host.Outcome State Fault Refusal) : Option State :=
  match o with
  | .next t => some t
  | .fault _ => none
  | .refused _ => none

/-- The reason of a fault. -/
def faultOf (o : Host.Outcome State Fault Refusal) : Option Fault :=
  match o with
  | .next _ => none
  | .fault r => some r
  | .refused _ => none

/-- The reason of a refusal. -/
def refusalOf (o : Host.Outcome State Fault Refusal) : Option Refusal :=
  match o with
  | .next _ => none
  | .fault _ => none
  | .refused r => some r

/-- The value an operation returned. -/
def replyOf (o : Host.Outcome State Fault Refusal) : Option Reply := (nextOf o).map State.reply

/-- Reset, with the registers written to a selector and equal working and declared sizes. -/
def configured (mode palsel : BitVec 2) (w h : RegWord) : State :=
  { State.reset with mode := mode, palsel := palsel, cfgW := w, cfgH := h, imgW := w, imgH := h }

/-- The same in the middle of a run. -/
def running (mode palsel : BitVec 2) (w h : RegWord) (y : BitVec 8) (g : BitVec 6) (cnt : BitVec 13) (out : Memory) : State :=
  { configured mode palsel w h with phase := .run, posY := y, posG := g, outCnt := cnt, out := out }

/-- The bytes of SRC for a list of pixels, from offset 0. -/
def image (ps : List Pixel) : Memory :=
  ((ps.flatMap (fun p => [p.r, p.g, p.b])).zipIdx).map (fun c => (c.2, c.1))

def white : Pixel := ⟨255, 255, 255⟩
def black : Pixel := ⟨0, 0, 0⟩
def red : Pixel := ⟨255, 0, 0⟩
def green : Pixel := ⟨0, 255, 0⟩
def blue : Pixel := ⟨0, 0, 255⟩
def yellow : Pixel := ⟨255, 255, 0⟩
def cyan : Pixel := ⟨0, 255, 255⟩
def magenta : Pixel := ⟨255, 0, 255⟩

/-- The image of program P1 of 95_test_vectors.md, 8 x 2. -/
def imageP1 : Memory :=
  image [red, red, green, green, blue, blue, yellow, yellow, white, white, magenta, magenta, red, yellow, blue, cyan]

/-- The image of program P2, 10 x 2. -/
def imageP2 : Memory :=
  image ([white, black, ⟨128, 128, 128⟩, ⟨127, 127, 127⟩, green, red, blue, yellow, cyan, magenta] ++
    List.replicate 9 ⟨6, 215, 0⟩ ++ [⟨7, 216, 1⟩])

/-- The image of program P3, 12 x 1. -/
def imageP3 : Memory :=
  image [black, black, white, white, cyan, cyan, magenta, magenta, red, red, green, blue]

/-- The image of program P6, 2 x 2. -/
def imageP6 : Memory := image [red, red, green, green]

-- The operand checks: an ill-formed term for each, at the first value beyond its range.

theorem test_wf_outRead : (Instr.outRead 6144).wellFormed = false ∧ (Instr.outRead 6143).wellFormed = true := by decide
theorem test_wf_srcWrite :
    (Instr.srcWrite 147456 0).wellFormed = false ∧ (Instr.srcWrite 147455 0).wellFormed = true := by decide

theorem test_wf_units_unchecked :
    [Instr.code4 255 127, .group4 255 63, .row4 255, .group1 255 63, .row1 255].all Instr.wellFormed = true := by decide

-- Decoding, each word written out bit by bit from the patterns of 30_encoding.md R57 and R59.

theorem test_decode_rdCtrl : decode (.host 0b0_0000_1111000011110000) = .ok .rdCtrl := by rfl
theorem test_decode_start : decode (.host 0b1_0000_1111111111111111) = .ok .start := by rfl
theorem test_decode_wrCtrlNop : decode (.host 0b1_0000_1111111111111110) = .ok .wrCtrlNop := by rfl
theorem test_decode_rdStatus : decode (.host 0b0_0001_0000000000000000) = .ok .rdStatus := by rfl
theorem test_decode_wrStatus : decode (.host 0b1_0001_1111111111111111) = .ok .wrStatus := by rfl
theorem test_decode_rdErrcode : decode (.host 0b0_0010_0000000000000001) = .ok .rdErrcode := by rfl
theorem test_decode_wrErrcode : decode (.host 0b1_0010_0000000000000010) = .ok .wrErrcode := by rfl
theorem test_decode_rdMode : decode (.host 0b0_0011_1010101111001101) = .ok .rdMode := by rfl
theorem test_decode_wrMode : decode (.host 0b1_0011_1111111111111110) = .ok (.wrMode 2) := by rfl
theorem test_decode_rdPalsel : decode (.host 0b0_0100_0000000000000000) = .ok .rdPalsel := by rfl
theorem test_decode_wrPalsel : decode (.host 0b1_0100_1000000000000101) = .ok (.wrPalsel 1) := by rfl
theorem test_decode_rdCfgW : decode (.host 0b0_0101_0000000000000000) = .ok .rdCfgW := by rfl
theorem test_decode_wrCfgW : decode (.host 0b1_0101_1000000000000001) = .ok (.wrCfgW 0x8001) := by rfl
theorem test_decode_rdCfgH : decode (.host 0b0_0110_0000000000000000) = .ok .rdCfgH := by rfl
theorem test_decode_wrCfgH : decode (.host 0b1_0110_0000000011000000) = .ok (.wrCfgH 192) := by rfl
theorem test_decode_rdImgW : decode (.host 0b0_0111_0000000000000000) = .ok .rdImgW := by rfl
theorem test_decode_wrImgW : decode (.host 0b1_0111_0000000001100100) = .ok (.wrImgW 100) := by rfl
theorem test_decode_rdImgH : decode (.host 0b0_1000_0000000000000000) = .ok .rdImgH := by rfl
theorem test_decode_wrImgH : decode (.host 0b1_1000_1111111111111110) = .ok (.wrImgH 0xFFFE) := by rfl
theorem test_decode_rdPosY : decode (.host 0b0_1001_0000000000000000) = .ok .rdPosY := by rfl
theorem test_decode_wrPosY : decode (.host 0b1_1001_0000000000000101) = .ok .wrPosY := by rfl
theorem test_decode_rdPosG : decode (.host 0b0_1010_0000000000000000) = .ok .rdPosG := by rfl
theorem test_decode_wrPosG : decode (.host 0b1_1010_0000000000000001) = .ok .wrPosG := by rfl
theorem test_decode_rdOutCnt : decode (.host 0b0_1011_0000000000000000) = .ok .rdOutCnt := by rfl
theorem test_decode_wrOutCnt : decode (.host 0b1_1011_0000000000010000) = .ok .wrOutCnt := by rfl
theorem test_decode_rdRsvd : decode (.host 0b0_1111_0000000000000000) = .ok .rdRsvd := by rfl
theorem test_decode_wrRsvd : decode (.host 0b1_1110_0001001000110100) = .ok .wrRsvd := by rfl
theorem test_decode_enc4A : decode (.sel 0b0000) = .ok .enc4A := by rfl
theorem test_decode_enc4B : decode (.sel 0b0001) = .ok .enc4B := by rfl
theorem test_decode_selRsvdPal : decode (.sel 0b0011) = .ok (.selRsvdPal 1) := by rfl
theorem test_decode_enc1 : decode (.sel 0b0110) = .ok (.enc1 2) := by rfl
theorem test_decode_selRsvdMode : decode (.sel 0b1101) = .ok (.selRsvdMode 5) := by rfl

-- The operations of the formats UNIT and PRIM carry no bits: they are presented as they are.

theorem test_decode_dist : decode (.direct (.dist red green)) = .ok (.dist red green) := by rfl
theorem test_decode_nearest : decode (.direct (.nearest blue)) = .ok (.nearest blue) := by rfl
theorem test_decode_merge : decode (.direct (.merge white black)) = .ok (.merge white black) := by rfl
theorem test_decode_code4 : decode (.direct (.code4 191 127)) = .ok (.code4 191 127) := by rfl
theorem test_decode_group4 : decode (.direct (.group4 191 31)) = .ok (.group4 191 31) := by rfl
theorem test_decode_row4 : decode (.direct (.row4 191)) = .ok (.row4 191) := by rfl
theorem test_decode_luma : decode (.direct (.luma cyan)) = .ok (.luma cyan) := by rfl
theorem test_decode_thresh : decode (.direct (.thresh cyan)) = .ok (.thresh cyan) := by rfl
theorem test_decode_group1 : decode (.direct (.group1 191 31)) = .ok (.group1 191 31) := by rfl
theorem test_decode_row1 : decode (.direct (.row1 0)) = .ok (.row1 0) := by rfl
theorem test_decode_step : decode (.direct (.step)) = .ok (.step) := by rfl
theorem test_decode_outRead : decode (.direct (.outRead 6143)) = .ok (.outRead 6143) := by rfl
theorem test_decode_srcWrite : decode (.direct (.srcWrite 147455 255)) = .ok (.srcWrite 147455 255) := by rfl
theorem test_decode_reset : decode (.direct (.reset)) = .ok (.reset) := by rfl

-- Every rejection, by its name.

theorem test_reject_hostWordTooWide :
    decodeHostWord 0x200000 = .error .hostWordTooWide ∧ decodeHostWord 0x1FFFFF = .ok .wrRsvd := ⟨rfl, rfl⟩
theorem test_reject_noSuchRegister :
    decodeRead 16 = .error .noSuchRegister ∧ decodeWrite 16 0 = .error .noSuchRegister := ⟨rfl, rfl⟩
theorem test_reject_selWordTooWide : decodeSelWord 16 = .error .selWordTooWide ∧ decodeSelWord 15 = .ok (.selRsvdMode 7) := ⟨rfl, rfl⟩
theorem test_reject_formatHasBits :
    decode (.direct .start) = .error .formatHasBits ∧ decode (.direct .enc4A) = .error .formatHasBits := ⟨rfl, rfl⟩
theorem test_formatHasBits_refused :
    refusalOf (step { State.reset with script := [.direct .start] }) = some (.undecodable .formatHasBits) := by decide

-- An offset that a memory does not have reaches the primitive, which faults; a row that no image has reaches the unit, which runs.

theorem test_outRead_absent_offset_faults :
    faultOf (step { State.reset with script := [.direct (.outRead 6144)] }) = some .outAddress := by decide
theorem test_srcWrite_absent_offset_faults :
    faultOf (step { State.reset with script := [.direct (.srcWrite 147456 0)] }) = some .srcAddress := by decide
theorem test_row_beyond_every_image_runs :
    step { configured 1 0 8 2 with script := [.direct (.group1 255 63)] } =
      .next { configured 1 0 8 2 with reply := .groupByte (Config.unitUnspecified 0), draws := 1 } := by rfl

-- Constants (00_scope.md R6, R7; 40_nearest_color.md R72).

theorem test_src_holds_the_largest_image : Config.srcBytes = params.maxW * params.maxH * 3 := by decide
theorem test_out_holds_the_largest_stream :
    Config.outBytes = total (.fourColor palA) 256 192 ∧ Config.outBytes = total .monochrome 256 192 := by decide

-- Register reads and writes (95_test_vectors.md V7).

theorem test_rdCtrl_reads_zero : replyOf (exec .rdCtrl (running 1 0 8 1 0 0 0 [])) = some (.rdata 0) := by decide
theorem test_rdStatus_in_run : replyOf (exec .rdStatus (running 1 0 8 1 0 0 0 [])) = some (.rdata 0x0005) := by decide
theorem test_rdStatus_in_err : replyOf (exec .rdStatus { State.reset with phase := .err }) = some (.rdata 0x0013) := by decide
theorem test_rdErrcode : replyOf (exec .rdErrcode { State.reset with phase := .err, errcode := 2 }) = some (.rdata 2) := by decide
theorem test_rdMode : replyOf (exec .rdMode (configured 3 1 8 1)) = some (.rdata 3) := by decide
theorem test_rdPalsel : replyOf (exec .rdPalsel (configured 3 1 8 1)) = some (.rdata 1) := by decide
theorem test_rdCfgW_reset : replyOf (exec .rdCfgW State.reset) = some (.rdata 0x0100) := by decide
theorem test_rdCfgH_reset : replyOf (exec .rdCfgH State.reset) = some (.rdata 0x00C0) := by decide
theorem test_rdImgW : replyOf (exec .rdImgW { State.reset with imgW := 100 }) = some (.rdata 0x0064) := by decide
theorem test_rdImgH : replyOf (exec .rdImgH { State.reset with imgH := 0xFFFF }) = some (.rdata 0xFFFF) := by decide
theorem test_rdPosY : replyOf (exec .rdPosY { State.reset with posY := 192, posG := 1 }) = some (.rdata 192) := by decide
theorem test_rdPosG : replyOf (exec .rdPosG { State.reset with posY := 192, posG := 1 }) = some (.rdata 1) := by decide
theorem test_rdOutCnt : replyOf (exec .rdOutCnt { State.reset with outCnt := 6144 }) = some (.rdata 0x1800) := by decide
theorem test_rdRsvd : replyOf (exec .rdRsvd (configured 3 3 9 9)) = some (.rdata 0) := by decide
theorem test_wrMode_keeps_two_bits :
    (nextOf (step { State.reset with script := [.host 0x13FFFF] })).map State.mode = some 3 := by decide
theorem test_wrMode_ignored_in_run : (nextOf (exec (.wrMode 0) (running 1 0 8 1 0 0 0 []))).map State.mode = some 1 := by decide
theorem test_wrPalsel_keeps_two_bits :
    (nextOf (step { State.reset with script := [.host 0x14FFFE] })).map State.palsel = some 2 := by decide
theorem test_wrCfgW : (nextOf (step { State.reset with script := [.host 0x15FFFF] })).map State.cfgW = some 65535 := by decide
theorem test_wrCfgH_in_done :
    (nextOf (exec (.wrCfgH 5) { State.reset with phase := .done })).map (fun t => (t.cfgH, t.phase)) = some (5, .done) := by decide
theorem test_wrImgW : (nextOf (step { State.reset with script := [.host 0x170064] })).map State.imgW = some 100 := by decide
theorem test_wrImgH_in_err :
    (nextOf (exec (.wrImgH 7) { State.reset with phase := .err, errcode := 2 })).map (fun t => (t.imgH, t.errcode)) = some (7, 2) := by
  decide
theorem test_wrCtrlNop : (nextOf (step { State.reset with script := [.host 0x100000] })).map State.phase = some .idle := by decide
theorem test_wrStatus_ignored : nextOf (step { State.reset with script := [.host 0x11FFFF] }) = some State.reset := by decide
theorem test_wrErrcode_ignored : nextOf (step { State.reset with script := [.host 0x120002] }) = some State.reset := by decide
theorem test_wrPosY_ignored : nextOf (step { State.reset with script := [.host 0x190005] }) = some State.reset := by decide
theorem test_wrPosG_ignored : nextOf (step { State.reset with script := [.host 0x1A0001] }) = some State.reset := by decide
theorem test_wrOutCnt_ignored : nextOf (step { State.reset with script := [.host 0x1B0010] }) = some State.reset := by decide
theorem test_wrRsvd_ignored : nextOf (step { State.reset with script := [.host 0x1F0001] }) = some State.reset := by decide

-- START (V5.16, V5.17, V5.14, V5.20, V5.24, V5.13), RESET (V8).

/-- What START leaves in PHASE and ERRCODE. -/
def startResult (s : State) : Option (Phase × BitVec 2) := (nextOf (exec .start s)).map (fun t => (t.phase, t.errcode))

theorem test_start_accepts : startResult (configured 0 0 2 1) = some (.run, 0) ∧ startResult (configured 1 3 1 1) = some (.run, 0) ∧
    startResult (configured 0 1 256 192) = some (.run, 0) := by decide
theorem test_start_refuses : startResult (configured 0 0 7 1) = some (.err, 1) ∧ startResult (configured 0 0 256 193) = some (.err, 1) ∧
    startResult (configured 1 0 257 192) = some (.err, 1) ∧ startResult (configured 0 2 256 192) = some (.err, 1) ∧
    startResult { configured 0 0 256 192 with imgH := 191 } = some (.err, 2) ∧
    startResult { configured 2 0 256 192 with imgW := 100, imgH := 100 } = some (.err, 1) ∧
    startResult State.reset = some (.err, 2) := by decide
theorem test_reset_in_run : (nextOf (exec .reset (running 0 1 2 2 1 0 1 [(0, 0xC0)]))).map
    (fun t => (t.phase, t.palsel, t.cfgW, t.imgW, t.outCnt)) = some (.idle, 0, 256, 0, 0) := by decide

-- The units (V1.10, V1.32, V1.29, V2.1, V2.3, V3.4 and the partial groups, V4.6, V4.5, V4.19).

theorem test_dist_value : replyOf (exec (.dist black ⟨255, 255, 255⟩) (configured 0 1 8 2)) = some (.distance 195075) := by decide
theorem test_dist_inactive : nextOf (exec (.dist black white) (configured 1 0 8 2)) = some (configured 1 0 8 2) := by decide
theorem test_nearest_tie_lowest : nearestOf black palA = 0 ∧ nearestOf ⟨0, 128, 128⟩ palA = 0 ∧ nearestOf ⟨127, 127, 127⟩ palA = 0 ∧
    nearestOf ⟨127, 127, 0⟩ palA = 0 ∧ nearestOf ⟨128, 128, 128⟩ palA = 1 ∧ nearestOf ⟨0, 127, 128⟩ palA = 2 ∧
    nearestOf ⟨255, 191, 127⟩ palB = 3 ∧ nearestOf ⟨255, 192, 128⟩ palB = 0 := by decide
theorem test_nearest_palette_selected : replyOf (exec (.nearest black) (configured 0 1 8 2)) = some (.code 3) ∧
    replyOf (exec (.nearest black) (configured 0 0 8 2)) = some (.code 0) := by decide
theorem test_merge_truncates : replyOf (exec (.merge ⟨1, 0, 255⟩ ⟨0, 0, 254⟩) (configured 0 0 8 2)) = some (.pixel ⟨0, 0, 254⟩) ∧
    replyOf (exec (.merge white black) (configured 0 0 8 2)) = some (.pixel ⟨127, 127, 127⟩) := by decide
theorem test_code4_merges_first :
    replyOf (exec (.code4 1 2) { configured 0 0 8 2 with src := imageP1 }) = some (.code 3) := by decide
theorem test_code4_beyond_row_is_free :
    exec (.code4 1 4) { configured 0 0 8 2 with src := imageP1 } =
      .next { configured 0 0 8 2 with src := imageP1, reply := .code (Config.codeUnspecified 0), draws := 1 } := by rfl
theorem test_group4 : replyOf (exec (.group4 1 0) { configured 0 0 8 2 with src := imageP1 }) = some (.groupByte 0x6E) ∧
    replyOf (exec (.group4 1 0) { configured 0 1 8 2 with src := imageP1 }) = some (.groupByte 0x2D) := by decide
theorem test_group4_absent_slots_zero :
    replyOf (exec (.group4 0 0) { configured 0 1 2 1 with src := image [black, black] }) = some (.groupByte 0xC0) := by decide
theorem test_row4 : replyOf (exec (.row4 0) { configured 0 1 12 1 with src := imageP3 }) = some (.row [0xC6, 0xD0]) := by decide
theorem test_luma_truncates : replyOf (exec (.luma ⟨6, 215, 0⟩) (configured 1 0 8 2)) = some (.luma 127) ∧
    replyOf (exec (.luma magenta) (configured 1 0 8 2)) = some (.luma 105) := by decide
theorem test_thresh_boundary : replyOf (exec (.thresh ⟨6, 215, 0⟩) (configured 1 0 8 2)) = some (.bit 0) ∧
    replyOf (exec (.thresh ⟨128, 128, 128⟩) (configured 1 0 8 2)) = some (.bit 1) := by decide
theorem test_group1 : replyOf (exec (.group1 0 0) { configured 1 0 10 2 with src := imageP2 }) = some (.groupByte 0xA9) := by decide
theorem test_group1_absent_pixels_zero :
    replyOf (exec (.group1 0 0) { configured 1 0 1 1 with src := image [white] }) = some (.groupByte 0x80) := by decide
theorem test_row1 : replyOf (exec (.row1 1) { configured 1 0 10 2 with src := imageP2 }) = some (.row [0x00, 0x40]) := by decide

-- Group steps (programs P1, P2, P6), and the whole runs of the operations of the selector map.

/-- What a run changes. -/
structure Progress where
  phase : Phase
  posY : BitVec 8
  posG : BitVec 6
  outCnt : BitVec 13
  out : List (Nat × Byte)
  deriving DecidableEq, Repr

/-- The progress of a state. -/
def progress (t : State) : Progress := ⟨t.phase, t.posY, t.posG, t.outCnt, t.out⟩

theorem test_step_first_of_row :
    (nextOf (exec .step { running 1 0 10 2 0 0 0 [] with src := imageP2 })).map progress = some ⟨.run, 0, 1, 1, [(0, 0xA9)]⟩ := by
  decide
theorem test_step_last_of_run :
    (nextOf (step { running 0 0 2 2 1 0 1 [(0, 0xC0)] with src := imageP6 })).map progress =
      some ⟨.done, 2, 0, 2, [(0, 0xC0), (1, 0x00)]⟩ := by decide
theorem test_enc4A : (nextOf (exec .enc4A { configured 3 3 8 2 with src := imageP1 })).map progress =
    some ⟨.done, 2, 0, 2, [(0, 0xC9), (1, 0x6E)]⟩ := by decide
theorem test_enc4B : (nextOf (exec .enc4B { configured 0 0 8 2 with src := imageP1 })).map progress =
    some ⟨.done, 2, 0, 2, [(0, 0xD7), (1, 0x2D)]⟩ := by decide
theorem test_enc1 : (nextOf (exec (.enc1 3) { configured 0 0 10 2 with src := imageP2 })).map progress =
    some ⟨.done, 2, 0, 4, [(0, 0xA9), (1, 0x80), (2, 0x00), (3, 0x40)]⟩ := by decide
theorem test_selRsvdPal : (nextOf (exec (.selRsvdPal 1) (configured 1 0 8 2))).map
    (fun t => (t.phase, t.errcode, t.mode, t.palsel)) = some (.err, 1, 0, 3) := by decide
theorem test_selRsvdMode : (nextOf (exec (.selRsvdMode 5) (configured 1 0 8 2))).map
    (fun t => (t.phase, t.errcode, t.mode, t.palsel)) = some (.err, 1, 3, 1) := by decide

-- OutRead and SrcWrite.

theorem test_outRead_below_count :
    replyOf (exec (.outRead 1) { State.reset with phase := .done, outCnt := 2, out := [(0, 0xC9), (1, 0x6E)] }) = some (.outByte 0x6E) := by
  decide
theorem test_outRead_at_count_is_free :
    exec (.outRead 1) (running 0 0 2 2 1 0 1 [(0, 0xC0), (1, 0)]) =
      .next { running 0 0 2 2 1 0 1 [(0, 0xC0), (1, 0)] with reply := .outByte (Config.outUnspecified 0), draws := 1 } := by rfl
theorem test_srcWrite_in_run :
    (nextOf (exec (.srcWrite 3 7) { running 1 0 8 1 0 0 0 [] with src := [(2, 1), (9, 9)] })).map State.src =
      some [(2, 1), (3, 7), (9, 9)] := by decide
theorem test_srcWrite_overwrites :
    (nextOf (exec (.srcWrite 9 7) { State.reset with src := [(2, 1), (9, 9)] })).map State.src = some [(2, 1), (9, 7)] := by decide

-- The group step's fault (log 10): a position outside the image and a full OUT.

theorem test_step_outside_image_faults :
    faultOf (exec .step (running 1 0 8 1 1 0 1 [])) = some .inconsistentRun ∧
      faultOf (exec .step (running 1 0 8 1 0 0 6144 [])) = some .inconsistentRun := by decide

-- The step without a request, and the placing of a table word.

theorem test_quiescent_without_request : nextOf (step (configured 0 0 2 2)) = some (configured 0 0 2 2) := by decide
theorem test_placed_word_runs :
    (nextOf (step (State.reset.withFetchWord 24 0x130001))).map State.mode = some 1 ∧
      (nextOf (step (State.reset.withFetchWord 8 0xD))).map State.phase = some .err := by decide

-- A witness for the hypotheses of each statement, at the ends of the ranges.

/-- A run of one Monochrome byte per row, before its only step of row y. -/
def monoRun (y : BitVec 8) (h : RegWord) (cnt : BitVec 13) (out : Memory) : State := running 1 2 8 h y 0 cnt out

/-- The largest FourColor run, in the last group of its last row. -/
def lastGroup : State := running 0 1 256 192 191 31 6143 []

/-- A finished Monochrome run of one byte. -/
def finished : State := { configured 1 0 3 1 with phase := .done, posY := 1, outCnt := 1, out := [(0, 0xA0)] }

/-- A state after a refused START. -/
def failed : State := { configured 0 0 7 1 with phase := .err, errcode := 1 }

theorem legal_largest (p : BitVec 2) : ConfigLegal 1 p 256 192 := by simp [ConfigLegal]
theorem legal_largest_four : ConfigLegal 0 1 256 192 := by unfold ConfigLegal; decide
theorem not_legal_odd : ¬ ConfigLegal 0 0 7 1 := by unfold ConfigLegal; decide

theorem inRun_last : InRun lastGroup := by
  refine ⟨rfl, legal_largest_four, ⟨rfl, rfl⟩, ?_, ?_, ?_⟩ <;> decide

theorem inRun_mono : InRun (monoRun 0 2 0 []) := by
  refine ⟨rfl, ?_, ⟨rfl, rfl⟩, ?_, ?_, ?_⟩
  · show ConfigLegal 1 2 8 2
    unfold ConfigLegal; decide
  all_goals decide

theorem inv_mono : Inv (monoRun 0 2 0 []) := by
  refine ⟨rfl, rfl, fun _ => inRun_mono, nofun, fun h => absurd h (by decide), by decide, by decide, ?_⟩
  intro k hk
  exact absurd hk (Nat.not_lt_zero k)

theorem inv_finished : Inv finished := by
  refine ⟨rfl, rfl, nofun, fun _ => ⟨1, 0, 3, 1, ?_, by decide, by decide, rfl⟩, fun h => absurd h (by decide), by decide,
    by decide, ?_⟩
  · unfold ConfigLegal; decide
  · intro k hk
    have h : k = 0 := by
      have : k < 1 := hk
      omega
    exact ⟨0xA0, by rw [h]; rfl⟩

theorem inv_failed : Inv failed := by
  refine ⟨rfl, rfl, nofun, nofun, fun _ => ⟨rfl, rfl, rfl⟩, by decide, by decide, ?_⟩
  intro k hk
  exact absurd hk (Nat.not_lt_zero k)

theorem witness_EveryHostWordIsOneRow :
    (Instr.start.format = .host ∧ Instr.start.matchesWord (0x10FFFF#21).toNat = true) ∧
      Instr.rdRsvd.format = .host ∧ Instr.rdRsvd.matchesWord (0x0FFFFF#21).toNat = true := by decide

theorem witness_StepRunsDecodedRequest :
    (∃ (s : State) (r : Request) (rest : List Request) (i : Instr), s.script = r :: rest ∧ decode r = .ok i) ∧
    (∃ (s : State) (r : Request) (rest : List Request) (e : DecodeError), s.script = r :: rest ∧ decode r = .error e) ∧
    ((monoRun 0 2 0 []).script = [] ∧ (monoRun 0 2 0 []).phase = .run) ∧
    (finished.script = [] ∧ finished.phase ≠ .run) :=
  ⟨⟨{ finished with script := [.host 0x1FFFFF] }, _, _, .wrRsvd, rfl, rfl⟩,
   ⟨{ finished with script := [.direct .enc4A] }, _, _, .formatHasBits, rfl, rfl⟩, ⟨rfl, rfl⟩, rfl, by decide⟩

theorem witness_PlacedTableWordRunsNext :
    decodeTableWord 24 0x1FFFFF = some .wrRsvd ∧ decodeTableWord 8 0xF = some (.selRsvdMode 7) := ⟨rfl, rfl⟩

theorem witness_NoOperandIsRefused :
    ((Instr.code4 255 127).format = .unit ∧ (Instr.outRead 8191).format = .prim) ∧
      (∃ e, step { finished with script := [.direct .start] } = .refused e) ∧
      ∃ e, step { failed with script := [.direct (.enc1 3)] } = .refused e :=
  ⟨by decide, ⟨_, rfl⟩, _, rfl⟩

theorem witness_ConfigWritesStoreOutsideRun : failed.phase ≠ .run ∧ (monoRun 0 2 0 []).phase = .run := by decide

theorem witness_StartJudgesConfigurationThenSizes :
    (monoRun 0 2 0 []).phase = .run ∧
    (failed.phase ≠ .run ∧ ¬ ConfigLegal failed.mode failed.palsel failed.cfgW.toNat failed.cfgH.toNat) ∧
    (∃ s : State, s.phase ≠ .run ∧ ConfigLegal s.mode s.palsel s.cfgW.toNat s.cfgH.toNat ∧ ¬ (s.imgW = s.cfgW ∧ s.imgH = s.cfgH)) ∧
    (∃ s : State, s.phase ≠ .run ∧ ConfigLegal s.mode s.palsel s.cfgW.toNat s.cfgH.toNat ∧ s.imgW = s.cfgW ∧ s.imgH = s.cfgH) :=
  ⟨rfl, ⟨by decide, not_legal_odd⟩,
   ⟨{ configured 0 1 256 192 with imgH := 191 }, by decide, legal_largest_four, by decide⟩,
   configured 0 1 256 192, by decide, legal_largest_four, rfl, rfl⟩

theorem witness_RunSizesBounded :
    (Selects 0 0 (.fourColor palA) ∧ sizesValid (.fourColor palA) 2 1 = true) ∧
      (Selects 0 1 (.fourColor palB) ∧ sizesValid (.fourColor palB) 256 192 = true) ∧
      Selects 1 3 .monochrome ∧ sizesValid .monochrome 1 1 = true ∧ sizesValid .monochrome 256 192 = true :=
  ⟨⟨.inl ⟨rfl, rfl, rfl⟩, by decide⟩, ⟨.inr (.inl ⟨rfl, rfl, rfl⟩), by decide⟩, .inr (.inr ⟨rfl, rfl⟩), by decide, by decide⟩

theorem witness_GroupStepAppendsOneByte :
    (InRun lastGroup ∧ Selects lastGroup.mode lastGroup.palsel (.fourColor palB)) ∧
      (InRun (monoRun 0 2 0 []) ∧ Selects (monoRun 0 2 0 []).mode (monoRun 0 2 0 []).palsel .monochrome) ∧
      failed.phase ≠ .run ∧ failed.script = [] :=
  ⟨⟨inRun_last, .inr (.inl ⟨rfl, rfl, rfl⟩)⟩, ⟨inRun_mono, .inr (.inr ⟨rfl, rfl⟩)⟩, by decide, rfl⟩

theorem witness_NoGroupStepOutsideRun : State.reset.phase ≠ .run ∧ finished.phase ≠ .run ∧ failed.phase ≠ .run := by decide

theorem witness_OutReadReturnsStreamByte :
    (∃ s : State, (6143#13).toNat < 6144 ∧ (6143#13).toNat < s.outCnt.toNat ∧ Memory.read? s.out (6143#13).toNat = some 9) ∧
      (6143#13).toNat < 6144 ∧ finished.outCnt.toNat ≤ (6143#13).toNat :=
  ⟨⟨{ finished with outCnt := 6144, out := [(0, 1), (6143, 9)] }, by decide⟩, by decide⟩

theorem witness_SrcWriteThenRead : (147455#18).toNat < 147456 ∧ (0#18).toNat < 147456 := by decide

theorem witness_FaultsOutsideTheSpaces :
    6144 ≤ (6144#13).toNat ∧ 147456 ≤ (147456#18).toNat ∧
      (∃ s : State, s.phase = .run ∧ ¬ ConfigLegal s.mode s.palsel s.cfgW.toNat s.cfgH.toNat) ∧
      (∃ s : State, s.phase = .run ∧ ConfigLegal s.mode s.palsel s.cfgW.toNat s.cfgH.toNat ∧ s.cfgH.toNat ≤ s.posY.toNat) ∧
      (∃ s : State, s.phase = .run ∧ s.posY.toNat < s.cfgH.toNat ∧ specStride s.mode s.cfgW.toNat ≤ s.posG.toNat) ∧
      (∃ s : State, s.phase = .run ∧ s.posG.toNat < specStride s.mode s.cfgW.toNat ∧ 6144 ≤ s.outCnt.toNat) ∧
      lastGroup.phase = .run ∧ exec .step lastGroup ≠ .fault .inconsistentRun :=
  ⟨by decide, by decide, ⟨running 0 0 7 1 0 0 0 [], rfl, not_legal_odd⟩,
   ⟨running 0 1 256 192 192 0 0 [], rfl, legal_largest_four, by decide⟩, ⟨running 0 1 256 192 191 32 0 [], rfl, by decide, by decide⟩,
   ⟨running 0 1 256 192 0 0 6144 [], rfl, by decide, by decide⟩, rfl, nofun⟩

theorem witness_DistIsSquaredDistance :
    SelectsFourColor (configured 0 0 2 1) palA ∧ SelectsFourColor (configured 0 1 2 1) palB :=
  ⟨⟨rfl, .inl ⟨rfl, rfl⟩⟩, rfl, .inr ⟨rfl, rfl⟩⟩

theorem witness_NearestIsLeastMinimum :
    SelectsFourColor lastGroup palB ∧ (0#2).toNat < (nearestOf blue palA).toNat :=
  ⟨⟨rfl, .inr ⟨rfl, rfl⟩⟩, by decide⟩

theorem witness_MergeTruncatesAverage : SelectsFourColor failed palA := ⟨rfl, .inl ⟨rfl, rfl⟩⟩

theorem witness_FourColorUnitsComplete :
    SelectsFourColor lastGroup palB ∧
      ConfigLegal lastGroup.mode lastGroup.palsel lastGroup.cfgW.toNat lastGroup.cfgH.toNat ∧
      (191#8).toNat < lastGroup.cfgH.toNat ∧ (127#7).toNat < lastGroup.cfgW.toNat / 2 ∧
      (31#6).toNat < (lastGroup.cfgW.toNat / 2 + 3) / 4 :=
  ⟨⟨rfl, .inr ⟨rfl, rfl⟩⟩, legal_largest_four, by decide, by decide, by decide⟩

theorem witness_Group4FieldsAreCodes : (0 : Nat) < 4 ∧ (3 : Nat) < 4 := by decide

theorem witness_Row4Unpacks : 127 / 4 < (256 / 2 + 3) / 4 ∧ 0 / 4 < (2 / 2 + 3) / 4 := by decide

theorem witness_LumaIsTruncatedWeightedSum : SelectsMonochrome finished := rfl

theorem witness_Bit1IsStrictThreshold : SelectsMonochrome (monoRun 1 2 1 [(0, 0)]) := rfl

theorem witness_Group1BitsAreDecisions : (0 : Nat) < 8 ∧ (7 : Nat) < 8 := by decide

theorem witness_Row1Unpacks :
    255 / 8 < (256 + 7) / 8 ∧ SelectsMonochrome (configured 1 2 256 192) ∧
      ∃ t, exec (.row1 191) (configured 1 2 256 192) = .next t :=
  ⟨by decide, rfl, _, rfl⟩

theorem witness_MonochromeUnitsComplete :
    SelectsMonochrome (configured 1 2 256 192) ∧ ConfigLegal 1 2 256 192 ∧ (191#8).toNat < (192#16).toNat ∧
      (31#6).toNat < ((256#16).toNat + 7) / 8 :=
  ⟨rfl, legal_largest 2, by decide, by decide⟩

theorem witness_InactiveUnitsDoNothing :
    finished.mode ≠ 0 ∧ ((configured 0 2 8 1).palsel ≠ 0 ∧ (configured 0 2 8 1).palsel ≠ 1) ∧ failed.mode ≠ 1 := by decide

theorem witness_UnitsOutsideImageReturnFreeValues :
    (SelectsFourColor failed palA ∧ ¬ ConfigLegal failed.mode failed.palsel failed.cfgW.toNat failed.cfgH.toNat) ∧
    (SelectsFourColor lastGroup palB ∧ lastGroup.cfgH.toNat ≤ (192#8).toNat) ∧
    (SelectsFourColor (configured 0 0 254 1) palA ∧ (configured 0 0 254 1).cfgW.toNat / 2 ≤ (127#7).toNat ∧
      ((configured 0 0 254 1).cfgW.toNat / 2 + 3) / 4 ≤ (32#6).toNat) ∧
    (SelectsMonochrome (configured 1 0 0 1) ∧ ¬ ConfigLegal 1 0 0 1) ∧
    (SelectsMonochrome finished ∧ finished.cfgH.toNat ≤ (1#8).toNat ∧ (finished.cfgW.toNat + 7) / 8 ≤ (1#6).toNat) :=
  ⟨⟨⟨rfl, .inl ⟨rfl, rfl⟩⟩, not_legal_odd⟩, ⟨⟨rfl, .inr ⟨rfl, rfl⟩⟩, by decide⟩,
   ⟨⟨rfl, .inl ⟨rfl, rfl⟩⟩, by decide, by decide⟩, ⟨rfl, by unfold ConfigLegal; decide⟩, rfl, by decide, by decide⟩

theorem witness_EncodeIsRowsOfGroupBytes : 191 < 192 ∧ 31 < stride (.fourColor palA) 256 ∧ 0 < stride .monochrome 1 := by decide

theorem witness_EncodingOperationsProduceEncode :
    (EncodesWith .enc4B 0 1 ∧ Selects 0 1 (.fourColor palB) ∧ (configured 1 1 256 192).phase ≠ .run ∧ ConfigLegal 0 1 256 192 ∧
      (configured 1 1 256 192).imgW = (configured 1 1 256 192).cfgW ∧ (configured 1 1 256 192).imgH = (configured 1 1 256 192).cfgH) ∧
    (EncodesWith (.enc1 3) 1 3 ∧ Selects 1 3 .monochrome ∧ finished.phase ≠ .run ∧
      ConfigLegal 1 3 finished.cfgW.toNat finished.cfgH.toNat ∧ finished.imgW = finished.cfgW ∧ finished.imgH = finished.cfgH) :=
  ⟨⟨.inr (.inl ⟨rfl, rfl, rfl⟩), .inr (.inl ⟨rfl, rfl, rfl⟩), by decide, legal_largest_four, rfl, rfl⟩,
   .inr (.inr ⟨rfl, rfl⟩), .inr (.inr ⟨rfl, rfl⟩), by decide, by unfold ConfigLegal; decide, rfl, rfl⟩

theorem witness_EncodingOperationsRaiseAtStart :
    EncodesWith .enc4A 0 0 ∧ (monoRun 0 2 0 []).phase = .run ∧
      (failed.phase ≠ .run ∧ ¬ ConfigLegal 0 0 failed.cfgW.toNat failed.cfgH.toNat) ∧
      (State.reset.phase ≠ .run ∧ ConfigLegal 0 0 State.reset.cfgW.toNat State.reset.cfgH.toNat ∧
        ¬ (State.reset.imgW = State.reset.cfgW ∧ State.reset.imgH = State.reset.cfgH)) :=
  ⟨.inl ⟨rfl, rfl, rfl⟩, rfl, ⟨by decide, not_legal_odd⟩, by decide, by unfold ConfigLegal; decide, by decide⟩

theorem witness_ReservedSelectorsRaiseInvalidConfiguration : finished.phase ≠ .run ∧ lastGroup.phase = .run := by decide

theorem witness_EncodingOperationIsItsScript :
    EncodesWith (.enc1 0) 1 0 ∧ finished.phase ≠ .run ∧ finished.script = [] ∧
      ConfigLegal 1 0 finished.cfgW.toNat finished.cfgH.toNat ∧ finished.imgW = finished.cfgW ∧ finished.imgH = finished.cfgH :=
  ⟨.inr (.inr ⟨rfl, rfl⟩), by decide, rfl, by unfold ConfigLegal; decide, rfl, rfl⟩

/-- Requests HOST may place in a run of two steps, before its last step. -/
def interleaved : List Instr := [.rdStatus, .wrMode 3, .step, .start, .outRead 6143, .enc4B]

theorem witness_RunAgreesWithEncode :
    (configured 0 0 2 2).phase ≠ .run ∧ Selects (configured 0 0 2 2).mode (configured 0 0 2 2).palsel (.fourColor palA) ∧
      ConfigLegal 0 0 2 2 ∧ (∀ i ∈ interleaved, i.wellFormed = true ∧ i ≠ .reset ∧ ∀ a v, i ≠ .srcWrite a v) ∧
      interleaved.count .step < specStride 0 2 * 2 ∧ interleaved.count .step + 1 = specStride 0 2 * 2 := by
  refine ⟨by decide, .inl ⟨rfl, rfl, rfl⟩, by unfold ConfigLegal; decide, ?_, by decide, by decide⟩
  intro i hi
  simp only [interleaved, List.mem_cons, List.not_mem_nil, or_false] at hi
  rcases hi with rfl | rfl | rfl | rfl | rfl | rfl <;> exact ⟨by decide, nofun, nofun⟩

theorem witness_EncodeReadsOnlyTheImage :
    Selects 1 2 .monochrome ∧ ConfigLegal 1 2 1 1 ∧ AgreeBelow (1 * 1 * 3) [(2, 5)] [(2, 5), (3, 7)] := by
  refine ⟨.inr (.inr ⟨rfl, rfl⟩), by unfold ConfigLegal; decide, ?_⟩
  intro a ha
  have hn : a ≠ 3 := by omega
  simp [Memory.read?, hn]

theorem witness_MonochromeIgnoresPalsel :
    (finished.mode = 1 ∧ ∃ t, exec .start finished = .next t) ∧
      ((monoRun 0 2 0 []).mode = 1 ∧ ∃ t, exec .step (monoRun 0 2 0 []) = .next t) ∧
      (∃ t, exec (.outRead 0) finished = .next t) ∧ ∃ t, exec (.outRead 6143) finished = .next t :=
  ⟨⟨rfl, _, rfl⟩, ⟨rfl, _, rfl⟩, ⟨_, rfl⟩, _, rfl⟩

theorem witness_StepKeepsInvariant :
    (Inv (monoRun 0 2 0 []) ∧ ∃ t, step (monoRun 0 2 0 []) = .next t) ∧ (Inv finished ∧ ∃ t, step finished = .next t) :=
  ⟨⟨inv_mono, _, rfl⟩, inv_finished, _, rfl⟩

theorem witness_RegisterRanges : (Inv (monoRun 0 2 0 []) ∧ (monoRun 0 2 0 []).phase = .run) ∧ Inv failed :=
  ⟨⟨inv_mono, rfl⟩, inv_failed⟩

theorem witness_EndedRunHasItsResult :
    (Inv finished ∧ finished.phase = .done ∧ 0 < finished.outCnt.toNat) ∧ Inv failed ∧ failed.phase = .err :=
  ⟨⟨inv_finished, rfl, by decide⟩, inv_failed, rfl⟩

theorem witness_EveryOperationCompletes :
    (Inv (monoRun 0 2 0 []) ∧ Instr.step.wellFormed = true) ∧ (Inv finished ∧ (Instr.outRead 6143).wellFormed = true) ∧
      Inv failed ∧ (Instr.group4 255 63).wellFormed = true :=
  ⟨⟨inv_mono, rfl⟩, ⟨inv_finished, rfl⟩, inv_failed, rfl⟩

theorem witness_CanonicalMemoriesAreEqual :
    Memory.wf 6144 [(0, 1), (6143, 2)] = true ∧ ∀ a, Memory.read? [(0, 1), (6143, 2)] a = Memory.read? [(0, 1), (6143, 2)] a :=
  ⟨by decide, fun _ => rfl⟩

theorem witness_OnlySrcWriteChangesSrc :
    (∃ t, exec .reset { finished with src := [(0, 7)] } = .next t) ∧ ∀ a v, Instr.reset ≠ .srcWrite a v :=
  ⟨⟨_, rfl⟩, fun _ _ => nofun⟩

theorem witness_ConfigurationFixedInRun :
    ((∃ t, exec (.wrMode 0) (monoRun 0 2 0 []) = .next t) ∧ (monoRun 0 2 0 []).phase = .run ∧ Instr.wrMode 0 ≠ .reset) ∧
      ((∃ t, exec (.wrImgH 9) failed = .next t) ∧ (∀ d, Instr.wrImgH 9 ≠ .wrMode d) ∧ (∀ d, Instr.wrImgH 9 ≠ .wrPalsel d) ∧
        (Instr.wrImgH 9).format ≠ .sel ∧ (∀ d, Instr.wrImgH 9 ≠ .wrCfgW d) ∧ (∀ d, Instr.wrImgH 9 ≠ .wrCfgH d) ∧
        (∀ d, Instr.wrImgH 9 ≠ .wrImgW d)) ∧
      (∃ t, exec (.wrMode 2) failed = .next t) ∧ ∀ d, Instr.wrMode 2 ≠ .wrImgH d :=
  ⟨⟨⟨_, rfl⟩, rfl, nofun⟩, ⟨⟨_, rfl⟩, nofun, nofun, by decide, nofun, nofun, nofun⟩, ⟨_, rfl⟩, nofun⟩

theorem witness_ScanPositionStaysOrAdvances :
    (∃ t, exec .step (monoRun 0 2 0 []) = .next t) ∧ Instr.step.format ≠ .sel := ⟨⟨_, rfl⟩, by decide⟩

theorem witness_StreamBytesAreFinal :
    ((∃ t, exec .step (monoRun 1 2 1 [(0, 5)]) = .next t) ∧ isStart .step = false ∧ Instr.step ≠ .reset) ∧
      (∃ t, exec (.wrMode 3) finished = .next t) ∧ isStart (.wrMode 3) = false ∧ Instr.wrMode 3 ≠ .reset ∧ Instr.wrMode 3 ≠ .step :=
  ⟨⟨⟨_, rfl⟩, rfl, nofun⟩, ⟨_, rfl⟩, rfl, nofun, nofun⟩

theorem witness_RunLeftOnlyByStepOrReset :
    (∃ t, exec .reset (monoRun 0 2 0 []) = .next t ∧ (monoRun 0 2 0 []).phase = .run ∧ t.phase ≠ .run) ∧
      ∃ t, exec .step { monoRun 1 2 1 [(0, 5)] with src := image (List.replicate 16 white) } = .next t ∧ t.phase ≠ .run :=
  ⟨⟨_, rfl, rfl, by decide⟩, _, rfl, by decide⟩

theorem witness_ErrorLeftOnlyByStartOrReset :
    ∃ t, exec .start { failed with mode := 1 } = .next t ∧ (State.phase { failed with mode := 1 }) = .err ∧ t.phase ≠ .err := ⟨_, rfl, rfl, by decide⟩

theorem witness_ErrorsOnlyFromStart :
    (∃ t, exec .start State.reset = .next t ∧ t.errcode ≠ State.reset.errcode ∧ t.phase = .err ∧ State.reset.phase ≠ .err) ∧
      ∃ t, exec .reset failed = .next t ∧ t.errcode ≠ failed.errcode :=
  ⟨⟨_, rfl, by decide, by decide, by decide⟩, _, rfl, by decide⟩

theorem witness_ReadsChangeOnlyTheReply :
    (isRead (.outRead 6143) = true ∧ ∃ t, exec (.outRead 6143) finished = .next t) ∧
      isRead (.row4 192) = true ∧ ∃ t, exec (.row4 192) failed = .next t :=
  ⟨⟨rfl, _, rfl⟩, rfl, _, rfl⟩

end Sys2Proof.Tests
end

section
/-! PROOFS. The nearest-colour matcher (40_nearest_color.md): the distance of two Pixels, the scan for the least distance, and the two units
DIST and NEAREST. -/

namespace Sys2Proof.Machine

-- The distance (R70).

/-- The square is taken over the integers, so no difference is cut off at 0. -/
theorem squareDiff_cast (a b : Byte) : (squareDiff a b : Int) = ((a.toNat : Int) - b.toNat) ^ 2 :=
  Int.toNat_of_nonneg (sq_nonneg _)

theorem squareDiff_comm (a b : Byte) : squareDiff a b = squareDiff b a := by
  rw [squareDiff, squareDiff, sub_sq_comm]

@[simp] theorem squareDiff_self (a : Byte) : squareDiff a a = 0 := by simp [squareDiff]

theorem squareDiff_eq_zero_iff (a b : Byte) : squareDiff a b = 0 ↔ a = b := by
  rw [← Int.natCast_eq_zero, squareDiff_cast, sq_eq_zero_iff, BitVec.toNat_eq]
  omega

theorem squareDiff_le (a b : Byte) : squareDiff a b ≤ 65025 := by
  have ha := a.isLt
  have hb := b.isLt
  have hsq : ((a.toNat : Int) - b.toNat) ^ 2 ≤ 255 ^ 2 := sq_le_sq' (by omega) (by omega)
  have hcast := squareDiff_cast a b
  omega

/-- The greatest square is reached by the two ends of the channel's range only. -/
theorem squareDiff_eq_max_iff (a b : Byte) : squareDiff a b = 65025 ↔ a = 0 ∧ b = 255 ∨ a = 255 ∧ b = 0 := by
  have ha := a.isLt
  have hb := b.isLt
  have hends : squareDiff a b = 65025 ↔ ((a.toNat : Int) - b.toNat) ^ 2 = 255 ^ 2 := by
    rw [← squareDiff_cast]; omega
  rw [hends, sq_eq_sq_iff_eq_or_eq_neg]
  bv_omega

theorem distOf_cast (p q : Pixel) :
    (distOf p q : Int) = ((p.r.toNat : Int) - q.r.toNat) ^ 2 + ((p.g.toNat : Int) - q.g.toNat) ^ 2 +
      ((p.b.toNat : Int) - q.b.toNat) ^ 2 := by
  simp only [distOf, Nat.cast_add, squareDiff_cast]

theorem distOf_comm (p q : Pixel) : distOf p q = distOf q p := by
  rw [distOf, squareDiff_comm p.r, squareDiff_comm p.g, squareDiff_comm p.b, distOf]

@[simp] theorem distOf_self (p : Pixel) : distOf p p = 0 := by simp [distOf]

theorem distOf_eq_zero_iff (p q : Pixel) : distOf p q = 0 ↔ p = q := by
  cases p; cases q
  simp [distOf, squareDiff_eq_zero_iff, and_assoc]

theorem distOf_le (p q : Pixel) : distOf p q ≤ 195075 := by
  have hr := squareDiff_le p.r q.r
  have hg := squareDiff_le p.g q.g
  have hb := squareDiff_le p.b q.b
  unfold distOf
  omega

/-- The greatest distance is reached when all three channels reach theirs: opposite corners of the colour cube. -/
theorem distOf_eq_max_iff (p q : Pixel) :
    distOf p q = 195075 ↔
      (p.r = 0 ∧ q.r = 255 ∨ p.r = 255 ∧ q.r = 0) ∧ (p.g = 0 ∧ q.g = 255 ∨ p.g = 255 ∧ q.g = 0) ∧
        (p.b = 0 ∧ q.b = 255 ∨ p.b = 255 ∧ q.b = 0) := by
  have hr := squareDiff_le p.r q.r
  have hg := squareDiff_le p.g q.g
  have hb := squareDiff_le p.b q.b
  simp only [← squareDiff_eq_max_iff]
  unfold distOf
  omega

/-- DIST under SEL = 000p. -/
theorem exec_dist_of_selectsFourColor {s : State} {P : Palette} (h : SelectsFourColor s P) (p q : Pixel) :
    exec (.dist p q) s = .next { s with reply := .distance (BitVec.ofNat 18 (distOf p q)) } :=
  unit4_active h _

/-- 18 bits hold every distance. -/
theorem distOf_fits (p q : Pixel) : (BitVec.ofNat 18 (distOf p q)).toNat = distOf p q := by
  have h := distOf_le p q
  rw [BitVec.toNat_ofNat]
  omega

/-- Settles O23: the square of each channel is at most 65025, with equality at the two ends of the range only. -/
theorem distIsSquaredDistance : Obligations.DistIsSquaredDistance :=
  ⟨fun p q => ⟨distOf_cast p q, distOf_comm p q, distOf_self p, distOf_le p q, distOf_eq_max_iff p q⟩,
    fun _ _ p q h => ⟨_, distOf_fits p q, exec_dist_of_selectsFourColor h p q⟩⟩

-- The scan (R71).

/-- The scan is the library's `argmin` fold, which replaces its candidate on strictly less. -/
theorem nearestScan_eq_foldl (p : Pixel) (P : Palette) (best : BitVec 2) (todo : List (BitVec 2)) :
    some (nearestScan p P best (distOf p (P.entry best)) todo) =
      todo.foldl (List.argAux fun i j => distOf p (P.entry i) < distOf p (P.entry j)) (some best) := by
  induction todo generalizing best with
  | nil => rfl
  | cons i rest ih =>
    by_cases hlt : distOf p (P.entry i) < distOf p (P.entry best)
    · simp [nearestScan, List.argAux, hlt, ih i]
    · simp [nearestScan, List.argAux, hlt, ih best]

theorem nearestOf_mem_argmin (p : Pixel) (P : Palette) :
    nearestOf p P ∈ List.argmin (fun i => distOf p (P.entry i)) [0, 1, 2, 3] :=
  (nearestScan_eq_foldl p P 0 [1, 2, 3]).symm

/-- The scan meets every index, index i in place i. -/
theorem scanOrder_idxOf (i : BitVec 2) : i ∈ [0, 1, 2, 3] ∧ [0, 1, 2, 3].idxOf i = i.toNat := by
  revert i; decide

theorem distOf_nearestOf_le (p : Pixel) (P : Palette) (j : BitVec 2) :
    distOf p (P.entry (nearestOf p P)) ≤ distOf p (P.entry j) :=
  List.le_of_mem_argmin (f := fun i => distOf p (P.entry i)) (scanOrder_idxOf j).1 (nearestOf_mem_argmin p P)

/-- On a tie the lowest index wins: an entry no farther than the one returned does not stand before it. -/
theorem nearestOf_le_of_distOf_le {p : Pixel} {P : Palette} {j : BitVec 2}
    (h : distOf p (P.entry j) ≤ distOf p (P.entry (nearestOf p P))) : (nearestOf p P).toNat ≤ j.toNat := by
  have hidx := List.index_of_argmin (nearestOf_mem_argmin p P) (scanOrder_idxOf j).1 h
  rwa [(scanOrder_idxOf _).2, (scanOrder_idxOf _).2] at hidx

/-- In a palette of four different colours each entry is nearest to itself: it is the only one at distance 0. -/
theorem nearestOf_entry {P : Palette} (hP : Function.Injective P.entry) (i : BitVec 2) :
    nearestOf (P.entry i) P = i := by
  have hle := distOf_nearestOf_le (P.entry i) P i
  rw [distOf_self, Nat.le_zero, distOf_eq_zero_iff] at hle
  exact (hP hle).symm

theorem palA_entry_injective : Function.Injective palA.entry := by unfold Function.Injective; decide

theorem palB_entry_injective : Function.Injective palB.entry := by unfold Function.Injective; decide

/-- NEAREST under SEL = 0000 and 0001. -/
theorem exec_nearest_of_selectsFourColor {s : State} {P : Palette} (h : SelectsFourColor s P) (p : Pixel) :
    exec (.nearest p) s = .next { s with reply := .code (nearestOf p P) } :=
  unit4_active h _

/-- Settles O24: the scan is a left-most `argmin`, and both palettes have four different colours. -/
theorem nearestIsLeastMinimum : Obligations.NearestIsLeastMinimum := by
  refine ⟨fun p P j => ⟨distOf_nearestOf_le p P j, fun hlower => ?_⟩,
    fun i => ⟨nearestOf_entry palA_entry_injective i, nearestOf_entry palB_entry_injective i⟩,
    fun _ _ p h => exec_nearest_of_selectsFourColor h p⟩
  by_contra hnear
  exact absurd (nearestOf_le_of_distOf_le (not_lt.mp hnear)) (not_le.mpr hlower)

end Sys2Proof.Machine
end

section
/-! PROOFS. The merge (41_merge.md): the average of one channel, the merge of two Pixels, and the unit MERGE. -/

namespace Sys2Proof.Machine

/-- The sum of two channels has 9 bits, its half fits the 8 bits of a channel: nothing is lost but the dropped bit. -/
@[simp] theorem mergeChannel_toNat (a b : Byte) : (mergeChannel a b).toNat = (a.toNat + b.toNat) / 2 := by
  have ha := a.isLt
  have hb := b.isLt
  rw [mergeChannel, BitVec.toNat_ofNat]
  omega

theorem mergeChannel_comm (a b : Byte) : mergeChannel a b = mergeChannel b a := by
  rw [mergeChannel, Nat.add_comm, mergeChannel]

@[simp] theorem mergeChannel_self (a : Byte) : mergeChannel a a = a := by
  apply BitVec.eq_of_toNat_eq
  rw [mergeChannel_toNat]
  omega

theorem mergeOf_comm (a b : Pixel) : mergeOf a b = mergeOf b a := by
  rw [mergeOf, mergeChannel_comm a.r, mergeChannel_comm a.g, mergeChannel_comm a.b, mergeOf]

@[simp] theorem mergeOf_self (a : Pixel) : mergeOf a a = a := by simp [mergeOf]

/-- MERGE under SEL = 000p. -/
theorem exec_merge_of_selectsFourColor {s : State} {P : Palette} (h : SelectsFourColor s P) (a b : Pixel) :
    exec (.merge a b) s = .next { s with reply := .pixel (mergeOf a b) } :=
  unit4_active h _

/-- Settles O25: the truncated average holds channel by channel, and the active unit replies with the merged Pixel. -/
theorem mergeTruncatesAverage : Obligations.MergeTruncatesAverage :=
  ⟨fun a b => ⟨mergeChannel_toNat a.r b.r, mergeChannel_toNat a.g b.g, mergeChannel_toNat a.b b.b,
      mergeOf_comm a b, mergeOf_self a⟩,
    fun _ _ a b h => exec_merge_of_selectsFourColor h a b⟩

end Sys2Proof.Machine
end

section
/-! PROOFS. The FourColor packer (42_pack4.md): the four fields of a slot, of a group byte, and of a byte of a row. -/

namespace Sys2Proof.Machine

/-- The four fields of a byte do not overlap: a code shifted into field k is read back from field k, and as 0 from any other. -/
theorem field_shiftLeft_code (c : BitVec 2) {i k : Nat} (hi : i < 4) (hk : k < 4) :
    ((c.setWidth 8 <<< ((3 - k) * 2)) >>> ((3 - i) * 2)).setWidth 2 = if i = k then c else 0 := by
  interval_cases i <;> interval_cases k <;> revert c <;> decide

/-- Slot k contributes to field k alone. -/
theorem slot4_field (m : Memory) (P : Palette) (w y g : Nat) {i k : Nat} (hi : i < 4) (hk : k < 4) :
    (slot4 m P w y g k >>> ((3 - i) * 2)).setWidth 2 =
      if i = k then (if 4 * g + i < mergedWidth w then code4Of m P w y (4 * g + i) else 0) else 0 := by
  rw [slot4]
  obtain rfl | hik := eq_or_ne i k
  · split <;> simp [field_shiftLeft_code, hi]
  · split <;> simp [field_shiftLeft_code, hi, hk, hik]

/-- R87, R88: reading a field distributes over the packer's disjunction, and of the four slots only slot i reaches field i. -/
theorem group4Of_field (m : Memory) (P : Palette) (w y g : Nat) {i : Nat} (hi : i < 4) :
    (group4Of m P w y g >>> ((3 - i) * 2)).setWidth 2 =
      if 4 * g + i < mergedWidth w then code4Of m P w y (4 * g + i) else 0 := by
  simp (disch := decide) only [group4Of, List.foldl, BitVec.ushiftRight_or_distrib, BitVec.setWidth_or,
    slot4_field m P w y g hi]
  interval_cases i <;> simp

@[simp] theorem row4Of_length (m : Memory) (P : Palette) (w y : Nat) : (row4Of m P w y).length = stride4 w := by
  simp [row4Of]

/-- R89: byte g of the row is the byte of group g. -/
theorem row4Of_getElem? (m : Memory) (P : Palette) {w g : Nat} (y : Nat) (hg : g < stride4 w) :
    (row4Of m P w y)[g]? = some (group4Of m P w y g) := by
  simp [row4Of, hg]

/-- Settles O28: hardware pixel j is slot j mod 4 of group j div 4. -/
theorem row4Unpacks : Obligations.Row4Unpacks := by
  intro m P w y
  refine ⟨row4Of_length m P w y, fun j hj => ⟨group4Of m P w y (j / 4), row4Of_getElem? m P y hj, ?_⟩⟩
  have hfield := group4Of_field m P w y (j / 4) (Nat.mod_lt j (by decide))
  rwa [Nat.div_add_mod] at hfield

end Sys2Proof.Machine
end

section
/-! PROOFS. The Monochrome packer (43_pack1.md): the luma of a Pixel, its decision, the eight bits of a slot, of a group byte and of a byte of
a row, and the units LUMA, THRESH and ROW1. -/

namespace Sys2Proof.Machine

-- The luma (R95).

theorem lumaOf_eq (p : Pixel) : lumaOf p = (299 * p.r.toNat + 587 * p.g.toNat + 114 * p.b.toNat) / 1000 := rfl

/-- The weights sum to 1000, so the luma stays within the range of the channels. -/
theorem lumaOf_le (p : Pixel) : lumaOf p ≤ 255 := by
  have hr := p.r.isLt
  have hg := p.g.isLt
  have hb := p.b.isLt
  rw [lumaOf_eq]
  omega

/-- The weights sum to 1000, so a grey has its own level as luma. -/
theorem lumaOf_grey (v : Byte) : lumaOf ⟨v, v, v⟩ = v.toNat := by
  simp only [lumaOf_eq]
  omega

/-- 8 bits hold every luma. -/
theorem lumaOf_fits (p : Pixel) : (BitVec.ofNat 8 (lumaOf p)).toNat = lumaOf p := by
  have h := lumaOf_le p
  rw [BitVec.toNat_ofNat]
  omega

/-- LUMA under SEL = 01pp. -/
theorem exec_luma_of_selectsMonochrome {s : State} (h : SelectsMonochrome s) (p : Pixel) :
    exec (.luma p) s = .next { s with reply := .luma (BitVec.ofNat 8 (lumaOf p)) } :=
  unit1_active h _

/-- Settles O29: the formula is the model's own, and the range and the greys follow from the weights' sum of 1000. -/
theorem lumaIsTruncatedWeightedSum : Obligations.LumaIsTruncatedWeightedSum :=
  ⟨fun p => ⟨lumaOf_eq p, lumaOf_le p⟩, lumaOf_grey,
    fun _ p h => ⟨_, lumaOf_fits p, exec_luma_of_selectsMonochrome h p⟩⟩

-- The decision (R96).

theorem bit1Of_eq (p : Pixel) : bit1Of p = if 127 < lumaOf p then 1 else 0 := rfl

theorem bit1Of_eq_one_iff (p : Pixel) : bit1Of p = 1 ↔ 127 < lumaOf p := by
  rw [bit1Of_eq]
  split <;> simp [*]

/-- A truncated quotient is above 127 exactly when the sum reaches 128 times the divisor. -/
theorem lumaOf_gt_iff_sum (p : Pixel) :
    127 < lumaOf p ↔ 128000 ≤ 299 * p.r.toNat + 587 * p.g.toNat + 114 * p.b.toNat := by
  rw [lumaOf_eq]
  omega

/-- Of the 8 bits of a luma, bit 7 is its quotient by 128. -/
theorem lumaOf_gt_iff_testBit (p : Pixel) : 127 < lumaOf p ↔ (lumaOf p).testBit 7 = true := by
  have h := lumaOf_le p
  rw [Nat.testBit_eq_decide_div_mod_eq, decide_eq_true_eq]
  omega

/-- THRESH under SEL = 01pp. -/
theorem exec_thresh_of_selectsMonochrome {s : State} (h : SelectsMonochrome s) (p : Pixel) :
    exec (.thresh p) s = .next { s with reply := .bit (bit1Of p) } :=
  unit1_active h _

/-- Settles O30: each of the three forms says that the luma is above 127. -/
theorem bit1IsStrictThreshold : Obligations.Bit1IsStrictThreshold :=
  ⟨fun p => ⟨bit1Of_eq_one_iff p, (bit1Of_eq_one_iff p).trans (lumaOf_gt_iff_sum p),
      (bit1Of_eq_one_iff p).trans (lumaOf_gt_iff_testBit p)⟩,
    fun _ p h => exec_thresh_of_selectsMonochrome h p⟩

-- The bytes (R98 to R101).

/-- The eight bits of a byte do not overlap: a decision shifted into bit 7 - k is found in bit 7 - k and in no other. -/
theorem getLsbD_shiftLeft_decision (c : BitVec 1) {i k : Nat} (hi : i < 8) (hk : k < 8) :
    (c.setWidth 8 <<< (7 - k)).getLsbD (7 - i) = true ↔ i = k ∧ c = 1 := by
  revert c; revert k; revert i; decide

/-- Slot k contributes to bit 7 - k alone. -/
theorem slot1_bit (m : Memory) (w y g : Nat) {i k : Nat} (hi : i < 8) (hk : k < 8) :
    (slot1 m w y g k).getLsbD (7 - i) = true ↔
      i = k ∧ 8 * g + i < w ∧ bit1Of (pix m w y (8 * g + i)) = 1 := by
  by_cases hin : 8 * g + k < w
  · rw [slot1, if_pos hin, getLsbD_shiftLeft_decision _ hi hk]
    exact and_congr_right fun hik => by simp [hik, hin]
  · rw [slot1, if_neg hin]
    simp only [BitVec.ofNat_eq_ofNat, BitVec.getLsbD_zero, Bool.false_eq_true, false_iff, not_and]
    rintro rfl hlt
    exact absurd hlt hin

/-- R98, R99: reading a bit distributes over the packer's disjunction, and of the eight slots only slot i reaches bit 7 - i. -/
theorem group1Of_bit (m : Memory) (w y g : Nat) {i : Nat} (hi : i < 8) :
    (group1Of m w y g).getLsbD (7 - i) = true ↔ 8 * g + i < w ∧ bit1Of (pix m w y (8 * g + i)) = 1 := by
  simp (disch := decide) only [group1Of, List.foldl, BitVec.getLsbD_or, Bool.or_eq_true, slot1_bit m w y g hi]
  interval_cases i <;> simp

@[simp] theorem row1Of_length (m : Memory) (w y : Nat) : (row1Of m w y).length = stride1 w := by
  simp [row1Of]

/-- R100: byte g of the row is the byte of group g. -/
theorem row1Of_getElem? (m : Memory) {w g : Nat} (y : Nat) (hg : g < stride1 w) :
    (row1Of m w y)[g]? = some (group1Of m w y g) := by
  simp [row1Of, hg]

/-- Pixel x of the row is pixel x mod 8 of group x div 8. -/
theorem row1Of_unpacks (m : Memory) (w y x : Nat) (hx : x / 8 < stride1 w) :
    ∃ b, (row1Of m w y)[x / 8]? = some b ∧
      (b.getLsbD (7 - x % 8) = true ↔ x < w ∧ bit1Of (pix m w y x) = 1) := by
  have hbit := group1Of_bit m w y (x / 8) (Nat.mod_lt x (by decide))
  rw [Nat.div_add_mod] at hbit
  exact ⟨group1Of m w y (x / 8), row1Of_getElem? m y hx, hbit⟩

/-- In MODE 1 the legal sizes are the same for every PALSEL, and so are the rows of the image. -/
theorem rowInImage_palsel {s : State} (h : SelectsMonochrome s) (y : BitVec 8) (p : BitVec 2) :
    rowInImage { s with palsel := p } y = rowInImage s y := by
  have hmode : s.mode = 1 := h
  rw [Bool.eq_iff_iff, rowInImage_iff, rowInImage_iff]
  simp [ConfigLegal, hmode]

theorem inRangeOr_palsel (b : Bool) (s : State) (r f : Reply) (n : Nat) (p : BitVec 2) :
    inRangeOr b { s with palsel := p } r f n = { inRangeOr b s r f n with palsel := p } := by
  cases b <;> rfl

/-- The outcome of ROW1 under SEL = 01pp, on a row of the image or not. -/
theorem exec_row1_of_selectsMonochrome {s : State} (h : SelectsMonochrome s) (y : BitVec 8) :
    exec (.row1 y) s = .next (inRangeOr (rowInImage s y) s (.row (row1Of s.src s.w y.toNat))
      (.row (freeBytes s.draws (stride1 s.w))) (stride1 s.w)) :=
  unit1_active h _

/-- R101 (4): PALSEL changes neither the row nor which rows are defined. -/
theorem exec_row1_palsel {s t : State} (h : SelectsMonochrome s) {y : BitVec 8} (p : BitVec 2)
    (ht : exec (.row1 y) s = .next t) : exec (.row1 y) { s with palsel := p } = .next { t with palsel := p } := by
  have hp : SelectsMonochrome { s with palsel := p } := h
  rw [exec_row1_of_selectsMonochrome h] at ht
  cases ht
  rw [exec_row1_of_selectsMonochrome hp, rowInImage_palsel h, inRangeOr_palsel]

/-- Settles O32: the row is unpacked group by group, and PALSEL reaches neither the bytes nor the range of ROW1. -/
theorem row1Unpacks : Obligations.Row1Unpacks :=
  ⟨fun m w y => ⟨row1Of_length m w y, row1Of_unpacks m w y⟩, fun _ _ _ p h ht => exec_row1_palsel h p ht⟩

end Sys2Proof.Machine
end

section
/-! PROOFS. `Start()` in the three ways R111 lets it go outside RUN, and the stride and total of a run (44_encoder.md R105 to R107, R111). -/

namespace Sys2Proof.Machine

-- START (R111).

theorem start_of_run {s : State} (hr : s.phase = .run) : start s = s := if_pos hr

theorem start_of_not_legal {s : State} (hr : s.phase ≠ .run)
    (hc : ¬ ConfigLegal s.mode s.palsel s.cfgW.toNat s.cfgH.toNat) :
    start s = s.emptyStream.raise .invalidConfiguration := by
  rw [← configValid_iff, Bool.not_eq_true] at hc
  rw [start, if_neg hr, if_pos hc]

theorem start_of_dims_ne {s : State} (hr : s.phase ≠ .run)
    (hc : ConfigLegal s.mode s.palsel s.cfgW.toNat s.cfgH.toNat) (hd : ¬ (s.imgW = s.cfgW ∧ s.imgH = s.cfgH)) :
    start s = s.emptyStream.raise .dimensionMismatch := by
  rw [← configValid_iff] at hc
  rw [← dimMatch_iff, Bool.not_eq_true] at hd
  rw [start, if_neg hr, if_neg (by simp [hc]), if_pos hd]

theorem start_of_accepted {s : State} (hr : s.phase ≠ .run)
    (hc : ConfigLegal s.mode s.palsel s.cfgW.toNat s.cfgH.toNat) (hw : s.imgW = s.cfgW) (hh : s.imgH = s.cfgH) :
    start s = s.emptyStream.accept := by
  rw [← configValid_iff] at hc
  have hd := (dimMatch_iff s).mpr ⟨hw, hh⟩
  rw [start, if_neg hr, if_neg (by simp [hc]), if_neg (by simp [hd])]

theorem exec_start (s : State) : exec .start s = .next (start s) := rfl

/-- Settles O14: the four cases of `Start()`, each with its exact next state. -/
theorem startJudgesConfigurationThenSizes : Obligations.StartJudgesConfigurationThenSizes := by
  intro s
  simp only [exec_start]
  refine ⟨fun hr => ?_, fun hr hc => ?_, fun hr hc hd => ?_, fun hr hc hw hh => ?_⟩
  · rw [start_of_run hr]
  · rw [start_of_not_legal hr hc]; rfl
  · rw [start_of_dims_ne hr hc hd]; rfl
  · rw [start_of_accepted hr hc hw hh]; rfl

-- Stride and Total (R107).

theorem size_ranges {op : EncOp} {w h : Nat} (hv : sizesValid op w h = true) :
    (1 ≤ w ∧ w ≤ 256) ∧ 1 ≤ h ∧ h ≤ 192 := by
  simp only [sizesValid, Bool.and_eq_true, decide_eq_true_eq] at hv
  obtain ⟨⟨⟨⟨hw1, hw256⟩, hh1⟩, hh192⟩, -⟩ := hv
  exact ⟨⟨hw1, hw256⟩, hh1, hh192⟩

theorem even_of_sizesValid {P : Palette} {w h : Nat} (hv : sizesValid (.fourColor P) w h = true) : w % 2 = 0 := by
  simp only [sizesValid, Bool.and_eq_true, decide_eq_true_eq] at hv
  exact hv.2

/-- A width of 1 to 256 has 1 to 32 groups: in FourColor mode it is even, so that even the least width, 2, has a group. -/
theorem stride_bounds {op : EncOp} {w h : Nat} (hv : sizesValid op w h = true) :
    1 ≤ stride op w ∧ stride op w ≤ 32 := by
  obtain ⟨⟨hw1, hw256⟩, -⟩ := size_ranges hv
  cases op with
  | fourColor P =>
    have heven := even_of_sizesValid hv
    simp only [stride, stride4, mergedWidth]
    omega
  | monochrome =>
    simp only [stride, stride1]
    omega

theorem total_bounds {op : EncOp} {w h : Nat} (hv : sizesValid op w h = true) :
    1 ≤ total op w h ∧ total op w h ≤ 6144 :=
  have ⟨hs1, hs32⟩ := stride_bounds hv
  have ⟨_, hh1, hh192⟩ := size_ranges hv
  ⟨Nat.mul_le_mul hs1 hh1, Nat.mul_le_mul hs32 hh192⟩

theorem total_eq_spec {mode palsel : BitVec 2} {op : EncOp} (hop : Selects mode palsel op) (w h : Nat) :
    total op w h = specStride mode w * h := by
  rw [total, stride_eq_spec hop]

/-- Settles O15: the machine's check, stride and total are those of the rules, and 32 * 192 = 6144. -/
theorem runSizesBounded : Obligations.RunSizesBounded := by
  intro mode palsel op w h hop
  refine ⟨sizesValid_iff hop w h, stride_eq_spec hop w, total_eq_spec hop w h, fun hv => ?_⟩
  obtain ⟨hs1, hs32⟩ := stride_bounds hv
  exact ⟨hs1, hs32, total_bounds hv⟩

end Sys2Proof.Machine
end

section
/-! PROOFS. The group step in the middle of a run (44_encoder.md R112, R113): it completes, and it moves OUT_CNT and the scan position together, so
that the position is always OUT_CNT divided by the stride, with its remainder. -/

namespace Sys2Proof.Machine

section InRun

variable {s : State} {op : EncOp} (hs : InRun s) (hop : Selects s.mode s.palsel op)
include hs hop

/-- The machine's check accepts the sizes of a run. -/
theorem InRun.sizesValid : sizesValid op s.w s.h = true :=
  (sizesValid_iff hop _ _).mpr hs.config

theorem InRun.posG_lt_stride : s.posG.toNat < stride op s.w := by
  rw [stride_eq_spec hop]; exact hs.group

theorem InRun.outCnt_eq : s.outCnt.toNat = s.posY.toNat * stride op s.w + s.posG.toNat := by
  rw [stride_eq_spec hop]; exact hs.count

/-- In a run at least one byte is still to come: the row of the position ends inside the image. -/
theorem InRun.outCnt_lt_total : s.outCnt.toNat < total op s.w s.h := by
  have hg := hs.posG_lt_stride hop
  calc s.outCnt.toNat = s.posY.toNat * stride op s.w + s.posG.toNat := hs.outCnt_eq hop
    _ < (s.posY.toNat + 1) * stride op s.w := by rw [Nat.succ_mul]; omega
    _ ≤ s.h * stride op s.w := Nat.mul_le_mul_right _ hs.row
    _ = total op s.w s.h := Nat.mul_comm _ _

theorem InRun.outCnt_lt : s.outCnt.toNat < 6144 :=
  (hs.outCnt_lt_total hop).trans_le (total_bounds (hs.sizesValid hop)).2

/-- In a run STEP completes: it is the group step of the operation selected. -/
theorem exec_step_of_inRun : exec .step s = .next (groupStep op s) := by
  have hready : runReady s = some op :=
    (runReady_iff s op).mpr ⟨hop, hs.config, hs.row, hs.group, hs.outCnt_lt hop⟩
  show seqStep s = _
  rw [seqStep, if_pos hs.phase, hready]

theorem groupStep_outCnt_toNat : (groupStep op s).outCnt.toNat = s.outCnt.toNat + 1 := by
  have hlt := hs.outCnt_lt hop
  rw [groupStep_outCnt]
  bv_omega

/-- R13: the position advances in row-major order, and its two registers do not overflow. -/
theorem groupStep_pos :
    ((groupStep op s).posY.toNat, (groupStep op s).posG.toNat) =
      if s.posG.toNat + 1 < stride op s.w then (s.posY.toNat, s.posG.toNat + 1) else (s.posY.toNat + 1, 0) := by
  obtain ⟨-, hstride⟩ := stride_bounds (hs.sizesValid hop)
  obtain ⟨-, -, hheight⟩ := size_ranges (hs.sizesValid hop)
  have hrow : s.posY.toNat < s.h := hs.row
  rw [groupStep_posY, groupStep_posG]
  split
  · rw [BitVec.toNat_add_of_lt (by simp; omega)]; rfl
  · rw [BitVec.toNat_add_of_lt (by simp; omega)]; rfl

end InRun

theorem groupStep_phase_of_inRun {s : State} (op : EncOp) (hs : InRun s) :
    (groupStep op s).phase =
      if ((groupStep op s).posY.toNat, (groupStep op s).posG.toNat) = (s.h, 0) then .done else .run := by
  rw [groupStep_phase, hs.phase]
  simp only [Prod.mk.injEq, BitVec.toNat_eq, BitVec.ofNat_eq_ofNat, BitVec.toNat_zero]

/-- A group step writes its byte at OUT_CNT and nowhere else. -/
theorem groupStep_read (op : EncOp) (s : State) (a : Nat) :
    Memory.read? (groupStep op s).out a =
      if a = s.outCnt.toNat then some (groupByteOf s.src op s.w s.posY.toNat s.posG.toNat)
      else Memory.read? s.out a := by
  rw [groupStep_out, Memory.read?_write]

/-- A group step changes the stream, the position and PHASE. -/
theorem groupStep_frame (op : EncOp) (s : State) :
    groupStep op s = { s with out := (groupStep op s).out, outCnt := (groupStep op s).outCnt,
                              posY := (groupStep op s).posY, posG := (groupStep op s).posG,
                              phase := (groupStep op s).phase } := by
  apply State.ext <;> simp

/-- Without a request and outside RUN nothing happens. -/
theorem step_of_quiescent {s : State} (hr : s.phase ≠ .run) (hs : s.script = []) : step s = .next s := by
  simp [step, hs, hr]

/-- Settles O16: the group step's effect, one lemma for each register it moves. -/
theorem groupStepAppendsOneByte : Obligations.GroupStepAppendsOneByte := by
  refine ⟨fun s op hs hop => ?_, fun _ => step_of_quiescent⟩
  rw [← stride_eq_spec hop]
  exact ⟨groupStep op s, exec_step_of_inRun hs hop, groupStep_frame op s, groupStep_read op s,
    groupStep_outCnt_toNat hs hop, groupStep_pos hs hop, groupStep_phase_of_inRun op hs⟩

end Sys2Proof.Machine
end

section
/-! PROOFS. A run against Encode (44_encoder.md R108, R113, R117): Encode as one list of bytes in stream order, the state after k group steps,
and what HOST's operations between the steps leave of it. -/

namespace Sys2Proof.Machine

-- Encode in stream order (R108, R109).

/-- A count in rows of n determines its row and its place in the row. -/
theorem div_mod_of_eq_row_add {n c y g : Nat} (hg : g < n) (hc : c = y * n + g) : c / n = y ∧ c % n = g :=
  (Nat.div_mod_unique (Nat.zero_lt_of_lt hg)).mpr ⟨by rw [hc, Nat.mul_comm, Nat.add_comm], hg⟩

/-- Byte k of the OutputStream: rows of `stride` bytes, row after row. -/
def streamByte (m : Memory) (op : EncOp) (w k : Nat) : Byte :=
  groupByteOf m op w (k / stride op w) (k % stride op w)

theorem streamByte_row (m : Memory) (op : EncOp) (w y : Nat) {g : Nat} (hg : g < stride op w) :
    streamByte m op w (y * stride op w + g) = groupByteOf m op w y g := by
  obtain ⟨hdiv, hmod⟩ := div_mod_of_eq_row_add hg rfl (y := y)
  rw [streamByte, hdiv, hmod]

theorem rowOf_eq (m : Memory) (op : EncOp) (w y : Nat) :
    rowOf m op w y = (List.range (stride op w)).map (fun g => streamByte m op w (y * stride op w + g)) :=
  List.map_congr_left fun _ hg => (streamByte_row m op w y (List.mem_range.mp hg)).symm

theorem encodeImage_eq (m : Memory) (op : EncOp) (w h : Nat) :
    encodeImage m op w h = (List.range (total op w h)).map (streamByte m op w) := by
  rw [total, Nat.mul_comm]
  induction h with
  | zero => simp [encodeImage]
  | succ h ih =>
    rw [encodeImage] at ih ⊢
    rw [List.range_succ, List.flatMap_append, ih, List.flatMap_singleton, rowOf_eq, Nat.succ_mul, List.range_add,
      List.map_append, List.map_map]
    rfl

@[simp] theorem encodeImage_length (m : Memory) (op : EncOp) (w h : Nat) :
    (encodeImage m op w h).length = total op w h := by
  simp [encodeImage_eq]

-- The state after k group steps (R113, R117).

theorem selects_groupSteps {s : State} {op : EncOp} (hop : Selects s.mode s.palsel op) (k : Nat) :
    Selects (groupSteps op k s).mode (groupSteps op k s).palsel op := by
  rwa [groupSteps_mode, groupSteps_palsel]

theorem groupStep_w (op : EncOp) (s : State) : (groupStep op s).w = s.w := by rw [State.w, groupStep_cfgW]

theorem groupStep_h (op : EncOp) (s : State) : (groupStep op s).h = s.h := by rw [State.h, groupStep_cfgH]

theorem groupSteps_w (op : EncOp) (k : Nat) (s : State) : (groupSteps op k s).w = s.w := by
  rw [State.w, groupSteps_cfgW]

theorem groupSteps_h (op : EncOp) (k : Nat) (s : State) : (groupSteps op k s).h = s.h := by
  rw [State.h, groupSteps_cfgH]

section InRun

variable {s : State} {op : EncOp} (hs : InRun s) (hop : Selects s.mode s.palsel op)
include hs hop

/-- R117: the scan position is OUT_CNT divided by the stride, with its remainder. -/
theorem InRun.pos_eq :
    s.outCnt.toNat / stride op s.w = s.posY.toNat ∧ s.outCnt.toNat % stride op s.w = s.posG.toNat :=
  div_mod_of_eq_row_add (hs.posG_lt_stride hop) (hs.outCnt_eq hop)

/-- The byte a group step writes is the next one of the stream. -/
theorem groupStep_read_stream (a : Nat) :
    Memory.read? (groupStep op s).out a =
      if a = s.outCnt.toNat then some (streamByte s.src op s.w a) else Memory.read? s.out a := by
  obtain ⟨hy, hg⟩ := hs.pos_eq hop
  rw [groupStep_read]
  split
  next ha => rw [ha, streamByte, hy, hg]
  next => rfl

/-- After the step too the position is that of OUT_CNT. -/
theorem groupStep_count :
    (groupStep op s).posG.toNat < stride op s.w ∧
      s.outCnt.toNat + 1 = (groupStep op s).posY.toNat * stride op s.w + (groupStep op s).posG.toNat := by
  have hpos := groupStep_pos hs hop
  have hcount := hs.outCnt_eq hop
  have hg := hs.posG_lt_stride hop
  split at hpos <;> obtain ⟨hy', hg'⟩ := Prod.mk.inj hpos <;> rw [hy', hg']
  · omega
  · rw [Nat.succ_mul]; omega

/-- R113: the position is (CFG_H, 0) exactly after Total steps. -/
theorem groupStep_pos_end_iff :
    ((groupStep op s).posY.toNat, (groupStep op s).posG.toNat) = (s.h, 0) ↔
      s.outCnt.toNat + 1 = total op s.w s.h := by
  obtain ⟨hg, hcount⟩ := groupStep_count hs hop
  rw [total, Nat.mul_comm, Prod.mk.injEq]
  constructor
  · rintro ⟨hy, hg0⟩
    rw [hcount, hy, hg0, Nat.add_zero]
  · intro hlast
    obtain ⟨hy, hg'⟩ := div_mod_of_eq_row_add hg hcount
    rw [hlast] at hy hg'
    exact ⟨by rw [← hy, Nat.mul_div_cancel _ (Nat.zero_lt_of_lt hg)], by rw [← hg', Nat.mul_mod_left]⟩

/-- A group step that is not the last keeps the run. -/
theorem inRun_groupStep (hlt : s.outCnt.toNat + 1 < total op s.w s.h) : InRun (groupStep op s) := by
  obtain ⟨hg, hcount⟩ := groupStep_count hs hop
  have hphase : (groupStep op s).phase = .run := by
    rw [groupStep_phase_of_inRun op hs, if_neg]
    exact fun hend => hlt.ne ((groupStep_pos_end_iff hs hop).mp hend)
  have hrow : (groupStep op s).posY.toNat < s.h := by
    rw [total, Nat.mul_comm, hcount] at hlt
    exact lt_of_mul_lt_mul_right ((Nat.le_add_right _ _).trans_lt hlt) (Nat.zero_le _)
  rw [stride_eq_spec hop] at hg hcount
  exact {
    phase := hphase
    config := by simpa using hs.config
    dims := by simpa using hs.dims
    row := by simpa using hrow
    group := by simpa using hg
    count := by simpa [groupStep_outCnt_toNat hs hop] using hcount }

/-- The last group step ends the run at (CFG_H, 0). -/
theorem groupStep_last (hlast : s.outCnt.toNat + 1 = total op s.w s.h) :
    (groupStep op s).phase = .done ∧ (groupStep op s).posY.toNat = s.h ∧ (groupStep op s).posG = 0 := by
  have hend := (groupStep_pos_end_iff hs hop).mpr hlast
  obtain ⟨hy, hg⟩ := Prod.mk.inj hend
  exact ⟨by rw [groupStep_phase_of_inRun op hs, if_pos hend], hy, BitVec.eq_of_toNat_eq hg⟩

/-- Before the last of its Total steps the run goes on, one byte for each step. -/
theorem inRun_groupSteps {k : Nat} (hk : s.outCnt.toNat + k < total op s.w s.h) :
    InRun (groupSteps op k s) ∧ (groupSteps op k s).outCnt.toNat = s.outCnt.toNat + k := by
  induction k with
  | zero => exact ⟨hs, rfl⟩
  | succ k ih =>
    obtain ⟨hrun, hcnt⟩ := ih (by omega)
    have hop' := selects_groupSteps hop k
    rw [groupSteps_succ, groupStep_outCnt_toNat hrun hop', hcnt]
    refine ⟨inRun_groupStep hrun hop' ?_, rfl⟩
    rwa [hcnt, groupSteps_w, groupSteps_h]

/-- R117: of a run that begins with an empty stream, before the last step OUT_CNT is k and the position is (k div stride, k mod stride). -/
theorem groupSteps_before_last (h0 : s.outCnt = 0) {k : Nat} (hk : k < total op s.w s.h) :
    InRun (groupSteps op k s) ∧ (groupSteps op k s).outCnt.toNat = k ∧
      (groupSteps op k s).posY.toNat = k / stride op s.w ∧ (groupSteps op k s).posG.toNat = k % stride op s.w := by
  have hzero : s.outCnt.toNat = 0 := by rw [h0]; rfl
  obtain ⟨hrun, hcnt⟩ := inRun_groupSteps hs hop (k := k) (by rwa [hzero, Nat.zero_add])
  obtain ⟨hy, hg⟩ := hrun.pos_eq (selects_groupSteps hop k)
  rw [hzero, Nat.zero_add] at hcnt
  rw [hcnt, groupSteps_w] at hy hg
  exact ⟨hrun, hcnt, hy.symm, hg.symm⟩

/-- R117: k group steps of such a run, the last included, write the first k bytes of the stream to OUT and no other byte. -/
theorem groupSteps_read (h0 : s.outCnt = 0) {k : Nat} (hk : k ≤ total op s.w s.h) :
    (groupSteps op k s).outCnt.toNat = k ∧ ∀ a, Memory.read? (groupSteps op k s).out a =
      if a < k then some (streamByte s.src op s.w a) else Memory.read? s.out a := by
  induction k with
  | zero => exact ⟨by simp [groupSteps, h0], fun a => by simp [groupSteps]⟩
  | succ k ih =>
    obtain ⟨hcnt, hread⟩ := ih (by omega)
    have hrun := (groupSteps_before_last hs hop h0 hk).1
    have hop' := selects_groupSteps hop k
    rw [groupSteps_succ, groupStep_outCnt_toNat hrun hop', hcnt]
    refine ⟨rfl, fun a => ?_⟩
    rw [groupStep_read_stream hrun hop', hcnt, hread, groupSteps_src, groupSteps_w]
    obtain rfl | hne := eq_or_ne a k
    · simp
    · have hsucc : a < k + 1 ↔ a < k := by omega
      simp [hne, hsucc]

/-- R117: the stream after k group steps is the first k bytes of Encode. -/
theorem streamOf_groupSteps (h0 : s.outCnt = 0) {k : Nat} (hk : k ≤ total op s.w s.h) :
    streamOf (groupSteps op k s) = ((encodeImage s.src op s.w s.h).take k).map some := by
  obtain ⟨hcnt, hread⟩ := groupSteps_read hs hop h0 hk
  rw [streamOf, hcnt, encodeImage_eq, ← List.map_take, List.take_range, Nat.min_eq_left hk, List.map_map]
  refine List.map_congr_left fun a ha => ?_
  rw [hread, if_pos (List.mem_range.mp ha)]
  rfl

end InRun

/-- The state an accepted START leaves is one in the middle of a run, at (0, 0). -/
theorem inRun_accept {s : State} (hc : ConfigLegal s.mode s.palsel s.cfgW.toNat s.cfgH.toNat)
    (hw : s.imgW = s.cfgW) (hh : s.imgH = s.cfgH) : InRun s.emptyStream.accept := by
  obtain ⟨op, hop⟩ := selects_of_legal hc
  have hv := (sizesValid_iff hop _ _).mpr hc
  obtain ⟨hstride, -⟩ := stride_bounds hv
  obtain ⟨-, hheight, -⟩ := size_ranges hv
  rw [stride_eq_spec hop] at hstride
  exact ⟨rfl, hc, ⟨hw, hh⟩, hheight, hstride, by simp⟩

-- HOST's operations between the steps.

/-- The operations R117 allows between the START and the end of a run: well-formed ones that neither write SRC nor reset. -/
def AllowedInRun (i : Instr) : Prop := i.wellFormed = true ∧ i ≠ .reset ∧ ∀ a v, i ≠ .srcWrite a v

/-- An operation with well-formed operands that is no STEP always answers a next state. -/
theorem exec_completes {i : Instr} (s : State) (hwf : i.wellFormed = true) (hi : i ≠ .step) :
    ∃ t, exec i s = .next t := by
  have h4 : ∀ f, ∃ t, unit4 s f = .next t := fun f => by unfold unit4; split <;> exact ⟨_, rfl⟩
  have h1 : ∀ r, ∃ t, unit1 s r = .next t := fun r => by unfold unit1; split <;> exact ⟨_, rfl⟩
  cases i
  case step => exact absurd rfl hi
  case outRead k => exact ⟨_, if_pos (of_decide_eq_true hwf)⟩
  case srcWrite a v => exact ⟨_, if_pos (of_decide_eq_true hwf)⟩
  case dist | nearest | merge | code4 | group4 | row4 => exact h4 _
  case luma | thresh | group1 | row1 => exact h1 _
  all_goals exact ⟨_, rfl⟩

/-- In RUN every operation but STEP, SrcWrite and RESET only hands over a value and draws free values. -/
theorem exec_in_run {s : State} {i : Instr} (hr : s.phase = .run) (hi : AllowedInRun i) (hstep : i ≠ .step) :
    ∃ r n, exec i s = .next ((s.withReply r).drew n) := by
  obtain ⟨hwf, hreset, hsrc⟩ := hi
  obtain ⟨t, ht⟩ := exec_completes s hwf hstep
  have hsame : exec i s = .next s → ∃ r n, exec i s = .next ((s.withReply r).drew n) := fun h => ⟨s.reply, 0, h⟩
  rcases exec_cases ht with ⟨-, r, n, rfl⟩ | ⟨-, rfl⟩ | rfl | ⟨m, p, -, rfl⟩ | ⟨hnr, -⟩ | ⟨h, -⟩ | ⟨a, v, h, -⟩ | ⟨h, -⟩
  · exact ⟨r, n, ht⟩
  · exact hsame (by rw [ht, start_of_run hr])
  · exact hsame ht
  · exact hsame (by rw [ht, runSelected, if_pos hr])
  · exact absurd hr hnr
  · exact absurd h hstep
  · exact absurd h (hsrc a v)
  · exact absurd h hreset

theorem advance_withReply_drew (s : State) (k : Nat) (r : Reply) (n : Nat) :
    ((s.withReply r).drew n).advance k = ((s.advance k).withReply r).drew n := by
  apply State.ext <;> simp [State.advance_posY, State.advance_posG] <;> rfl

theorem finishAtEnd_withReply_drew (s : State) (r : Reply) (n : Nat) :
    ((s.withReply r).drew n).finishAtEnd = (s.finishAtEnd.withReply r).drew n := by
  have hphase : ((s.withReply r).drew n).finishAtEnd.phase = s.finishAtEnd.phase := by
    rw [State.finishAtEnd_phase, State.finishAtEnd_phase]; rfl
  apply State.ext <;> simp [hphase]

/-- A group step reads neither the reply nor the count of free values. -/
theorem groupStep_withReply_drew (op : EncOp) (s : State) (r : Reply) (n : Nat) :
    groupStep op ((s.withReply r).drew n) = ((groupStep op s).withReply r).drew n := by
  rw [groupStep, groupStep, ← finishAtEnd_withReply_drew, ← advance_withReply_drew]
  rfl

theorem groupSteps_withReply_drew (op : EncOp) (k : Nat) (s : State) (r : Reply) (n : Nat) :
    groupSteps op k ((s.withReply r).drew n) = ((groupSteps op k s).withReply r).drew n := by
  induction k with
  | zero => rfl
  | succ k ih => rw [groupSteps_succ, groupSteps_succ, ih, groupStep_withReply_drew]

theorem withReply_drew_again (s : State) (r r' : Reply) (n n' : Nat) :
    (((s.withReply r).drew n).withReply r').drew n' = (s.withReply r').drew (n + n') := by
  apply State.ext <;> simp [Nat.add_assoc]

theorem InRun.withReply_drew {s : State} (hs : InRun s) (r : Reply) (n : Nat) : InRun ((s.withReply r).drew n) :=
  ⟨hs.phase, hs.config, hs.dims, hs.row, hs.group, hs.count⟩

@[simp] theorem streamOf_withReply_drew (s : State) (r : Reply) (n : Nat) :
    streamOf ((s.withReply r).drew n) = streamOf s := rfl

theorem execAll_cons {i : Instr} {is : List Instr} {s t : State} (h : exec i s = .next t) :
    execAll (i :: is) s = execAll is t := by
  rw [execAll, h]

/-- R117: operations without SrcWrite and RESET, the last step of the run not among them, leave what their STEPs alone leave, but for
the reply and the count of free values. -/
theorem execAll_in_run {s : State} {op : EncOp} {is : List Instr} (his : ∀ i ∈ is, AllowedInRun i) (hs : InRun s)
    (hop : Selects s.mode s.palsel op) (hlt : s.outCnt.toNat + is.count .step < total op s.w s.h) :
    ∃ r n, execAll is s = .next (((groupSteps op (is.count .step) s).withReply r).drew n) := by
  induction is generalizing s with
  | nil => exact ⟨s.reply, 0, rfl⟩
  | cons i is ih =>
    obtain ⟨hi, his'⟩ := List.forall_mem_cons.mp his
    by_cases hstep : i = .step
    · subst hstep
      rw [List.count_cons_self] at hlt ⊢
      rw [execAll_cons (exec_step_of_inRun hs hop)]
      refine ih his' (inRun_groupStep hs hop (by omega)) (by simpa using hop) ?_
      rw [groupStep_outCnt_toNat hs hop, groupStep_w, groupStep_h]
      omega
    · rw [List.count_cons_of_ne hstep] at hlt ⊢
      obtain ⟨r, n, hexec⟩ := exec_in_run hs.phase hi hstep
      obtain ⟨r', n', hrest⟩ := ih his' (hs.withReply_drew r n) hop hlt
      rw [execAll_cons hexec, hrest, groupSteps_withReply_drew, withReply_drew_again]
      exact ⟨r', n + n', rfl⟩

/-- R117: the last of the Total steps, taken of a state that k steps and HOST's operations left, ends the run with the whole of Encode. -/
theorem last_step_completes_encode {s : State} {op : EncOp} (hs : InRun s) (hop : Selects s.mode s.palsel op)
    (h0 : s.outCnt = 0) {k : Nat} (hlast : k + 1 = total op s.w s.h) (r : Reply) (n : Nat) :
    ∃ u, exec .step (((groupSteps op k s).withReply r).drew n) = .next u ∧ u.phase = .done ∧
      streamOf u = (encodeImage s.src op s.w s.h).map some ∧ u.outCnt.toNat = total op s.w s.h ∧
      u.posY.toNat = s.h ∧ u.posG = 0 := by
  obtain ⟨hrun, hcnt, -⟩ := groupSteps_before_last hs hop h0 (by omega : k < total op s.w s.h)
  have hop' := selects_groupSteps hop k
  obtain ⟨hdone, hy, hg⟩ := groupStep_last hrun hop' (by rw [hcnt, groupSteps_w, groupSteps_h, hlast])
  have hstream := streamOf_groupSteps hs hop h0 hlast.le
  obtain ⟨hcnt', -⟩ := groupSteps_read hs hop h0 hlast.le
  rw [groupSteps_h] at hy
  rw [List.take_of_length_le (by rw [encodeImage_length, hlast]), groupSteps_succ] at hstream
  rw [groupSteps_succ, hlast] at hcnt'
  refine ⟨_, exec_step_of_inRun (hrun.withReply_drew r n) hop', ?_⟩
  rw [groupStep_withReply_drew]
  simpa using ⟨hdone, hstream, hcnt', hy, hg⟩

/-- Settles O41: an accepted START begins a run; what follows it leaves the same as its STEPs alone, and these leave the bytes of Encode. -/
theorem runAgreesWithEncode : Obligations.RunAgreesWithEncode := by
  intro s op is hr hop hc hw hh his hlt
  have hstart : exec .start s = .next s.emptyStream.accept := by rw [exec_start, start_of_accepted hr hc hw hh]
  have hs := inRun_accept hc hw hh
  rw [← total_eq_spec hop] at hlt ⊢
  rw [← stride_eq_spec hop, execAll_cons hstart]
  obtain ⟨r, n, hexec⟩ := execAll_in_run his hs hop ((Nat.zero_add _).trans_lt hlt)
  obtain ⟨hrun, hcnt, hy, hg⟩ := groupSteps_before_last hs hop rfl hlt
  exact ⟨_, hexec, hrun.phase, (streamOf_withReply_drew ..).trans (streamOf_groupSteps hs hop rfl hlt.le), hcnt, hy, hg,
    fun hlast => last_step_completes_encode hs hop rfl hlast r n⟩

end Sys2Proof.Machine
end

section
/-! PROOFS. HOST's register transactions (45_host_interface.md R120 to R148): what a transaction word decodes to, one rule each for the reads,
the ignored writes and the configuration writes, and the word of STATUS. -/

namespace Sys2Proof.Machine

-- The transaction word (R120, 30_encoding.md R58, R59).

/-- With we = 0 the register number alone decides: the write data is ignored. -/
theorem decode_hostWord_read (regno : BitVec 4) (wdata : RegWord) :
    decode (.host (hostWord 0 regno wdata)) = decodeRead regno.toNat := by
  have hr := regno.isLt
  have hw := wdata.isLt
  have hword : (hostWord 0 regno wdata).toNat = regno.toNat * 2 ^ 16 + wdata.toNat := by simp [hostWord_toNat]
  have hwe : (regno.toNat * 2 ^ 16 + wdata.toNat) / 2 ^ 20 = 0 := by omega
  have hreg : (regno.toNat * 2 ^ 16 + wdata.toNat) / 2 ^ 16 % 16 = regno.toNat := by omega
  rw [decode, hword, decodeHostWord, hwe]
  exact congrArg decodeRead hreg

/-- With we = 1 the register number and the write data decide. -/
theorem decode_hostWord_write (regno : BitVec 4) (wdata : RegWord) :
    decode (.host (hostWord 1 regno wdata)) = decodeWrite regno.toNat wdata.toNat := by
  have hr := regno.isLt
  have hw := wdata.isLt
  have hword : (hostWord 1 regno wdata).toNat = 2 ^ 20 + (regno.toNat * 2 ^ 16 + wdata.toNat) := by
    simp [hostWord_toNat, Nat.add_assoc]
  have hwe : (2 ^ 20 + (regno.toNat * 2 ^ 16 + wdata.toNat)) / 2 ^ 20 = 1 := by omega
  have hreg : (2 ^ 20 + (regno.toNat * 2 ^ 16 + wdata.toNat)) / 2 ^ 16 % 16 = regno.toNat := by omega
  have hdata : (2 ^ 20 + (regno.toNat * 2 ^ 16 + wdata.toNat)) % 2 ^ 16 = wdata.toNat := by omega
  rw [decode, hword, decodeHostWord, hwe]
  exact congrArg₂ decodeWrite hreg hdata

/-- The numbers `11--` are the reserved registers. -/
theorem decodeRead_reserved {regno : BitVec 4} (h : 12 ≤ regno.toNat) : decodeRead regno.toNat = .ok .rdRsvd := by
  have hlt : regno.toNat < 16 := regno.isLt
  interval_cases regno.toNat <;> rfl

theorem decodeWrite_reserved {regno : BitVec 4} (h : 12 ≤ regno.toNat) (wdata : Nat) :
    decodeWrite regno.toNat wdata = .ok .wrRsvd := by
  have hlt : regno.toNat < 16 := regno.isLt
  interval_cases regno.toNat <;> rfl

-- The three ways a transaction goes (R121, R122).

theorem readsRegister_of_returnRdata {i : Instr} {regno : BitVec 4} {val : State → RegWord}
    (hdecode : decodeRead regno.toNat = .ok i) (hexec : ∀ s, exec i s = .next (s.returnRdata (val s))) :
    ReadsRegister i regno val :=
  ⟨fun wdata => (decode_hostWord_read regno wdata).trans hdecode, hexec⟩

theorem ignoresWrite_of_decodeWrite {i : Instr} {regno : BitVec 4}
    (hdecode : ∀ wdata, decodeWrite regno.toNat wdata = .ok i) (hexec : ∀ s, exec i s = .next s) :
    IgnoresWrite i regno :=
  ⟨fun wdata => (decode_hostWord_write regno wdata).trans (hdecode _), hexec⟩

theorem writesRegister_of_configure {i : RegWord → Instr} {regno : BitVec 4} {update : RegWord → State → State}
    (hdecode : ∀ wdata : RegWord, decodeWrite regno.toNat wdata.toNat = .ok (i wdata))
    (hexec : ∀ wdata s, exec (i wdata) s = .next (s.configure (update wdata s))) :
    WritesRegister i regno update := by
  refine fun wdata => ⟨(decode_hostWord_write regno wdata).trans (hdecode wdata), fun s hr => ?_, fun s hr => ?_⟩
  · rw [hexec, State.configure_not_run _ _ hr]
  · rw [hexec, State.configure_run _ _ hr]

-- The configuration registers (R129 to R140).

/-- A size register takes the 16 bits of the write data unchanged. -/
theorem writesRegister_of_configure_word {i : RegWord → Instr} {regno : BitVec 4} {update : RegWord → State → State}
    (hdecode : ∀ n, decodeWrite regno.toNat n = .ok (i (BitVec.ofNat 16 n)))
    (hexec : ∀ wdata s, exec (i wdata) s = .next (s.configure (update wdata s))) :
    WritesRegister i regno update := by
  refine writesRegister_of_configure (fun wdata => ?_) hexec
  rw [hdecode, BitVec.ofNat_toNat, BitVec.setWidth_eq]

/-- Settles O13: MODE and PALSEL keep bits 1:0 of the write data, the size registers all 16, and each write is a `configure`. -/
theorem configWritesStoreOutsideRun : Obligations.ConfigWritesStoreOutsideRun :=
  ⟨writesRegister_of_configure (fun _ => rfl) fun _ _ => rfl,
    writesRegister_of_configure (fun _ => rfl) fun _ _ => rfl,
    writesRegister_of_configure_word (fun _ => rfl) fun _ _ => rfl,
    writesRegister_of_configure_word (fun _ => rfl) fun _ _ => rfl,
    writesRegister_of_configure_word (fun _ => rfl) fun _ _ => rfl,
    writesRegister_of_configure_word (fun _ => rfl) fun _ _ => rfl⟩

/-- Settles O8: each of the six reads returns its register and leaves the rest. -/
theorem configRegisterReads : Obligations.ConfigRegisterReads :=
  ⟨readsRegister_of_returnRdata rfl fun _ => rfl, readsRegister_of_returnRdata rfl fun _ => rfl,
    readsRegister_of_returnRdata rfl fun _ => rfl, readsRegister_of_returnRdata rfl fun _ => rfl,
    readsRegister_of_returnRdata rfl fun _ => rfl, readsRegister_of_returnRdata rfl fun _ => rfl⟩

-- STATUS (R125).

@[simp] theorem statusWord_idle : statusWord .idle = 0x0000 := rfl
@[simp] theorem statusWord_run : statusWord .run = 0x0005 := rfl
@[simp] theorem statusWord_done : statusWord .done = 0x000A := rfl
@[simp] theorem statusWord_err : statusWord .err = 0x0013 := rfl

theorem exec_rdStatus (s : State) : exec .rdStatus s = .next (s.returnRdata (statusWord s.phase)) := rfl

/-- Settles O10: the word of STATUS, phase by phase. -/
theorem statusReadsPhase : Obligations.StatusReadsPhase := by
  refine readsRegister_of_returnRdata rfl fun s => ?_
  rw [exec_rdStatus]
  cases s.phase with
  | idle => rw [statusWord_idle]
  | run => rw [statusWord_run]
  | done => rw [statusWord_done]
  | err => rw [statusWord_err]

-- The registers without storage, and the ignored writes (R123, R126, R142 to R148).

theorem readsRegister_reserved {regno : BitVec 4} (h : 12 ≤ regno.toNat) : ReadsRegister .rdRsvd regno fun _ => 0 :=
  readsRegister_of_returnRdata (decodeRead_reserved h) fun _ => rfl

theorem ignoresWrite_reserved {regno : BitVec 4} (h : 12 ≤ regno.toNat) : IgnoresWrite .wrRsvd regno :=
  ignoresWrite_of_decodeWrite (decodeWrite_reserved h) fun _ => rfl

/-- Settles O11: CTRL by its number 0, the reserved registers by their numbers from 12 up. -/
theorem ctrlAndReservedReadZero : Obligations.CtrlAndReservedReadZero :=
  ⟨readsRegister_of_returnRdata rfl fun _ => rfl, readsRegister_reserved (by decide), readsRegister_reserved (by decide),
    readsRegister_reserved (by decide), readsRegister_reserved (by decide)⟩

/-- Settles O12: the write data of these registers is not looked at, and their writes are the identity. -/
theorem readOnlyWritesIgnored : Obligations.ReadOnlyWritesIgnored :=
  ⟨ignoresWrite_of_decodeWrite (fun _ => rfl) fun _ => rfl, ignoresWrite_of_decodeWrite (fun _ => rfl) fun _ => rfl,
    ignoresWrite_of_decodeWrite (fun _ => rfl) fun _ => rfl, ignoresWrite_of_decodeWrite (fun _ => rfl) fun _ => rfl,
    ignoresWrite_of_decodeWrite (fun _ => rfl) fun _ => rfl, ignoresWrite_reserved (by decide),
    ignoresWrite_reserved (by decide), ignoresWrite_reserved (by decide), ignoresWrite_reserved (by decide), fun _ => rfl⟩

end Sys2Proof.Machine
end

section
/-! PROOFS. The decoder and the encoder (30_encoding.md R50, R57 to R59): each transaction word and each selector is one row, decoding inverts
encoding, and no operand value is refused; with them the step that takes a request (10_state.md R10). -/

namespace Sys2Proof.Machine

-- The operands of a write (R59).

/-- Of CTRL's write data bit 0 alone decides. -/
theorem decode_write_ctrl (w : RegWord) :
    decode (.host (hostWord 1 0 w)) = .ok (if w.getLsbD 0 then .start else .wrCtrlNop) := by
  have hbit : (w.toNat % 2 = 1) = (w.getLsbD 0 = true) := by simp [BitVec.getLsbD, Nat.testBit_zero]
  rw [decode_hostWord_write]
  change Except.ok (if w.toNat % 2 = 1 then Instr.start else Instr.wrCtrlNop) = _
  simp only [hbit]

/-- Settles O5: START by bit 0; the six configuration writes decode as their register transactions do. -/
theorem writeDataBitsAreOperands : Obligations.WriteDataBitsAreOperands := by
  obtain ⟨hmode, hpalsel, hcfgW, hcfgH, himgW, himgH⟩ := configWritesStoreOutsideRun
  exact fun w => ⟨decode_write_ctrl w, (hmode w).1, (hpalsel w).1, (hcfgW w).1, (hcfgH w).1, (himgW w).1, (himgH w).1⟩

-- Decoding inverts encoding.

/-- The two operand bits of a MODE or PALSEL write survive the zero extension to the write data. -/
theorem extractLsb'_setWidth_two (d : BitVec 2) : (d.setWidth 16).extractLsb' 0 2 = d := by
  revert d; decide

/-- Settles O2: the writes with an operand by the bits of their write data, the selectors by their don't-care bits, and every other row
by evaluating its one encoding. -/
theorem decodeInvertsEncode : Obligations.DecodeInvertsEncode := by
  intro i
  cases i
  case wrMode d =>
    obtain ⟨-, h, -⟩ := writeDataBitsAreOperands (d.setWidth 16)
    rwa [extractLsb'_setWidth_two] at h
  case wrPalsel d =>
    obtain ⟨-, -, h, -⟩ := writeDataBitsAreOperands (d.setWidth 16)
    rwa [extractLsb'_setWidth_two] at h
  case wrCfgW d => obtain ⟨-, -, -, h, -⟩ := writeDataBitsAreOperands d; exact h
  case wrCfgH d => obtain ⟨-, -, -, -, h, -⟩ := writeDataBitsAreOperands d; exact h
  case wrImgW d => obtain ⟨-, -, -, -, -, h, -⟩ := writeDataBitsAreOperands d; exact h
  case wrImgH d => obtain ⟨-, -, -, -, -, -, h⟩ := writeDataBitsAreOperands d; exact h
  case selRsvdPal p => rcases one_bit p with rfl | rfl <;> rfl
  case enc1 p => rcases two_bits p with rfl | rfl | rfl | rfl <;> rfl
  case selRsvdMode p => rcases three_bits p with rfl | rfl | rfl | rfl | rfl | rfl | rfl | rfl <;> rfl
  all_goals rfl

-- Every host word is one row (R59).

/-- The mask and the match of the 27 HOST rows: the reads of the registers 0 to 11, their writes with the two rows of CTRL, and the two
rows of the reserved registers. -/
def hostPatterns : List (Nat × Nat) :=
  (List.range 12).map (fun r => (0x1F0000, r * 0x10000)) ++
    (List.range 11).map (fun r => (0x1F0000, 0x100000 + (r + 1) * 0x10000)) ++
    [(0x1F0001, 0x100000), (0x1F0001, 0x100001), (0x1C0000, 0x0C0000), (0x1C0000, 0x1C0000)]

theorem tableRow_mem_hostPatterns {i : Instr} (hi : i.format = .host) : ∃ c ∈ hostPatterns, i.tableRow = some c := by
  cases i <;> cases hi <;> exact ⟨_, by decide, rfl⟩

/-- Two different HOST patterns disagree on a bit that both fix. -/
theorem hostPatterns_disjoint : ∀ c ∈ hostPatterns, ∀ d ∈ hostPatterns, c.2 &&& d.1 = d.2 &&& c.1 → c = d := by
  decide

theorem matchesWord_iff {i : Instr} {c : Nat × Nat} (hi : i.tableRow = some c) (w : Nat) :
    i.matchesWord w = true ↔ w &&& c.1 = c.2 := by
  simp [Instr.matchesWord, hi]

/-- No word matches the patterns of two HOST rows. -/
theorem tableRow_eq_of_matchesWord {i j : Instr} {w : Nat} (hi : i.format = .host) (hj : j.format = .host)
    (hwi : i.matchesWord w = true) (hwj : j.matchesWord w = true) : j.tableRow = i.tableRow := by
  obtain ⟨c, hc, hic⟩ := tableRow_mem_hostPatterns hi
  obtain ⟨d, hd, hjd⟩ := tableRow_mem_hostPatterns hj
  rw [matchesWord_iff hic] at hwi
  rw [matchesWord_iff hjd] at hwj
  have hcd : d.2 &&& c.1 = c.2 &&& d.1 := by rw [← hwi, ← hwj, Nat.and_right_comm]
  rw [hic, hjd, hostPatterns_disjoint d hd c hc hcd]

/-- The mask of the reserved registers looks at the row number without its two lowest bits. -/
theorem and_reserved_mask (w : Nat) : w &&& 0x1C0000 = w / 65536 % 32 / 4 * 0x40000 := by
  have hrow : ∀ r < 32, r * 65536 &&& 0x1C0000 = r / 4 * 0x40000 := by decide
  rw [← hrow _ (Nat.mod_lt _ (by decide)), ← and_row_mask, Nat.and_assoc]
  rfl

/-- The mask of CTRL's writes looks at the row number and at bit 0. -/
theorem and_ctrl_mask (w : Nat) : w &&& 0x1F0001 = w / 65536 % 32 * 65536 ||| w % 2 := by
  rw [← and_row_mask, ← Nat.and_one_is_mod, ← Nat.and_or_distrib_left]
  rfl

/-- A transaction word is the triple of its three fields (R58). -/
theorem exists_hostWord (t : BitVec 21) : ∃ we regno wdata, t = hostWord we regno wdata := by
  refine ⟨t.extractLsb' 20 1, t.extractLsb' 16 4, t.extractLsb' 0 16, BitVec.eq_of_toNat_eq ?_⟩
  have ht := t.isLt
  rw [hostWord_toNat]
  simp only [BitVec.extractLsb'_toNat, Nat.shiftRight_eq_div_pow]
  omega

/-- The operation decoded from r is a HOST row whose pattern holds of the word w. -/
def DecodesToHostRow (r : Except DecodeError Instr) (w : Nat) : Prop :=
  ∃ i, r = .ok i ∧ i.format = .host ∧ i.matchesWord w = true

theorem decodeRead_hostRow (regno : BitVec 4) (wdata : RegWord) :
    DecodesToHostRow (decodeRead regno.toNat) (hostWord 0 regno wdata).toNat := by
  have hrow := hostWord_row 0 regno wdata
  have hlt : regno.toNat < 16 := regno.isLt
  generalize (hostWord 0 regno wdata).toNat = w at hrow ⊢
  interval_cases regno.toNat <;>
    exact ⟨_, rfl, rfl, by simp [Instr.matchesWord, Instr.tableRow, and_row_mask, and_reserved_mask, hrow]⟩

theorem decodeWrite_hostRow (regno : BitVec 4) (wdata : RegWord) :
    DecodesToHostRow (decodeWrite regno.toNat wdata.toNat) (hostWord 1 regno wdata).toNat := by
  have hrow := hostWord_row 1 regno wdata
  have hbit : (hostWord 1 regno wdata).toNat % 2 = wdata.toNat % 2 := by
    rw [hostWord_toNat]; omega
  have hlt : regno.toNat < 16 := regno.isLt
  generalize (hostWord 1 regno wdata).toNat = w at hrow hbit ⊢
  obtain h0 | h1 := Nat.eq_zero_or_pos regno.toNat
  · rw [h0] at hrow ⊢
    rcases Nat.mod_two_eq_zero_or_one wdata.toNat with hb | hb
    · exact ⟨.wrCtrlNop, by simp [decodeWrite, hb], rfl,
        by simp [Instr.matchesWord, Instr.tableRow, and_ctrl_mask, hrow, hbit, hb]⟩
    · exact ⟨.start, by simp [decodeWrite, hb], rfl,
        by simp [Instr.matchesWord, Instr.tableRow, and_ctrl_mask, hrow, hbit, hb]⟩
  · interval_cases regno.toNat <;>
      exact ⟨_, rfl, rfl, by simp [Instr.matchesWord, Instr.tableRow, and_row_mask, and_reserved_mask, hrow]⟩

theorem decode_host_hostRow (t : BitVec 21) : DecodesToHostRow (decode (.host t)) t.toNat := by
  obtain ⟨we, regno, wdata, rfl⟩ := exists_hostWord t
  rcases one_bit we with rfl | rfl
  · rw [decode_hostWord_read]; exact decodeRead_hostRow regno wdata
  · rw [decode_hostWord_write]; exact decodeWrite_hostRow regno wdata

/-- Settles O3: the word's fields lead to a row it matches, and no two HOST patterns are met by one word. -/
theorem everyHostWordIsOneRow : Obligations.EveryHostWordIsOneRow := by
  intro t
  obtain ⟨i, hdecode, hi, hmatch⟩ := decode_host_hostRow t
  exact ⟨i, hdecode, hi, hmatch, fun j hj hj' => tableRow_eq_of_matchesWord hi hj hmatch hj'⟩

/-- Settles O1: words of the table, read by the decoder. -/
theorem specWordsDecode : Obligations.SpecWordsDecode := by
  unfold Obligations.SpecWordsDecode; decide

-- Every selector is one row (R57).

/-- Settles O4: the sixteen selectors one by one. -/
theorem everySelectorIsOneRow : Obligations.EverySelectorIsOneRow := by
  intro mode palsel
  rcases two_bits mode with rfl | rfl | rfl | rfl <;> rcases two_bits palsel with rfl | rfl | rfl | rfl <;>
    exact ⟨_, rfl, rfl, rfl, by decide⟩

theorem exists_decode_sel (w : BitVec 4) : ∃ i, decode (.sel w) = .ok i := by
  have hw : w = selWord (w.extractLsb' 2 2) (w.extractLsb' 0 2) := by revert w; decide
  obtain ⟨i, hdecode, -⟩ := everySelectorIsOneRow (w.extractLsb' 2 2) (w.extractLsb' 0 2)
  exact ⟨i, hw ▸ hdecode⟩

-- The requests that carry no bits (R50), and the step.

theorem decode_direct {i : Instr} (hi : i.format = .unit ∨ i.format = .prim) : decode (.direct i) = .ok i := by
  rcases hi with hi | hi <;> simp [decode, decodeDirect, hi]

theorem decode_direct_of_bits {i : Instr} (hi : i.format = .host ∨ i.format = .sel) :
    decode (.direct i) = .error .formatHasBits := by
  rcases hi with hi | hi <;> simp [decode, decodeDirect, hi]

/-- The decoder refuses a transaction and a selector presented without its bits, and nothing else. -/
theorem decode_error {r : Request} {e : DecodeError} (h : decode r = .error e) :
    ∃ j, r = .direct j ∧ (j.format = .host ∨ j.format = .sel) ∧ e = .formatHasBits := by
  cases r with
  | host t =>
    obtain ⟨i, hdecode, -⟩ := decode_host_hostRow t
    simp [hdecode] at h
  | sel w =>
    obtain ⟨i, hdecode⟩ := exists_decode_sel w
    simp [hdecode] at h
  | direct j =>
    have hformat : (j.format = .host ∨ j.format = .sel) ∨ j.format = .unit ∨ j.format = .prim := by
      cases j.format <;> simp
    rcases hformat with hbits | hnone
    · rw [decode_direct_of_bits hbits] at h
      exact ⟨j, rfl, hbits, (Except.error.inj h).symm⟩
    · rw [decode_direct hnone] at h
      cases h

theorem step_of_undecodable {s : State} {r : Request} {rest : List Request} {e : DecodeError}
    (hs : s.script = r :: rest) (hd : decode r = .error e) : step s = .refused (.undecodable e) := by
  simp [step, hs, hd]

theorem step_of_no_request_in_run {s : State} (hs : s.script = []) (hr : s.phase = .run) : step s = exec .step s := by
  simp [step, hs, hr]

/-- Settles O58: an operation that decodes is run, and running an operation never refuses it. -/
theorem noOperandIsRefused : Obligations.NoOperandIsRefused := by
  intro s rest i
  refine ⟨fun hi => step_of_request rfl (decode_direct hi), fun r e h => ?_⟩
  cases hd : decode r with
  | ok j =>
    rw [step_of_request rfl hd] at h
    exact absurd h (exec_ne_refused _ _ _)
  | error e' =>
    obtain ⟨j, hj, hformat, rfl⟩ := decode_error hd
    rw [step_of_undecodable rfl hd] at h
    exact ⟨j, hj, hformat, (Host.Outcome.refused.inj h).symm⟩

/-- Settles O6: the four cases of the step. -/
theorem stepRunsDecodedRequest : Obligations.StepRunsDecodedRequest := fun _ =>
  ⟨fun _ _ _ => step_of_request, fun _ _ _ => step_of_undecodable, step_of_no_request_in_run,
    fun hs hr => step_of_quiescent hr hs⟩

theorem decodeTableWord_eq_some {nbits w : Nat} {i : Instr} (h : decodeTableWord nbits w = some i) :
    ∃ r, tableRequest nbits w = some r ∧ decode r = .ok i := by
  unfold decodeTableWord at h
  split at h
  next r hr =>
    split at h
    next j hj => cases h; exact ⟨r, hr, hj⟩
    next => cases h
  next => cases h

/-- Settles O7: the placed request is the one in front, and taking it gives back the requests that were there. -/
theorem placedTableWordRunsNext : Obligations.PlacedTableWordRunsNext := by
  intro s nbits w i h
  obtain ⟨r, hr, hd⟩ := decodeTableWord_eq_some h
  have hplaced : s.withFetchWord nbits w = { s with script := r :: s.script } := by simp [State.withFetchWord, hr]
  rw [hplaced]
  exact step_of_request rfl hd

end Sys2Proof.Machine
end

section
/-! PROOFS. The invariant of the block (10_state.md R13, R14, R27): every step keeps it, and what it says of the registers, of a run's result
(70_reset_and_hazards.md R195) and of the operations that complete. -/

namespace Sys2Proof.Machine

-- The states the invariant is established for.

/-- A state in the middle of a run has the invariant when its memories and ERRCODE are as R27 says. -/
theorem InRun.inv {s : State} (hs : InRun s) (hsrc : Memory.wf Config.srcBytes s.src = true)
    (hout : Memory.wf Config.outBytes s.out = true) (herr : s.errcode = 0)
    (hwritten : ∀ k, k < s.outCnt.toNat → ∃ v, Memory.read? s.out k = some v) : Inv s where
  srcWf := hsrc
  outWf := hout
  inRun _ := hs
  inDone h := by simp [hs.phase] at h
  quiet h := by simp [hs.phase] at h
  errIff := by simp [hs.phase, herr]
  noCode3 := by simp [herr]
  written := hwritten

/-- The end of a run of legal sizes has the invariant, whatever the configuration registers hold by now. -/
theorem inv_of_done {s : State} {mode palsel : BitVec 2} {w h : Nat} (hphase : s.phase = .done)
    (hc : ConfigLegal mode palsel w h) (hcnt : s.outCnt.toNat = specStride mode w * h) (hy : s.posY.toNat = h)
    (hg : s.posG = 0) (hsrc : Memory.wf Config.srcBytes s.src = true) (hout : Memory.wf Config.outBytes s.out = true)
    (herr : s.errcode = 0) (hwritten : ∀ k, k < s.outCnt.toNat → ∃ v, Memory.read? s.out k = some v) : Inv s where
  srcWf := hsrc
  outWf := hout
  inRun h := by simp [hphase] at h
  inDone _ := ⟨mode, palsel, w, h, hc, hcnt, hy, hg⟩
  quiet h := by simp [hphase] at h
  errIff := by simp [hphase, herr]
  noCode3 := by simp [herr]
  written := hwritten

/-- Outside a run and its end the stream is empty, so nothing needs to be written. -/
theorem inv_of_quiet {s : State} (hphase : s.phase = .idle ∨ s.phase = .err)
    (hzero : s.outCnt = 0 ∧ s.posY = 0 ∧ s.posG = 0) (herr : s.errcode ≠ 0 ↔ s.phase = .err) (h3 : s.errcode ≠ 3)
    (hsrc : Memory.wf Config.srcBytes s.src = true) (hout : Memory.wf Config.outBytes s.out = true) : Inv s where
  srcWf := hsrc
  outWf := hout
  inRun h := by simp [h] at hphase
  inDone h := by simp [h] at hphase
  quiet _ := hzero
  errIff := herr
  noCode3 := h3
  written k hk := by simp [hzero.1] at hk

theorem Inv.errcode_eq_zero {s : State} (hs : Inv s) (h : s.phase ≠ .err) : s.errcode = 0 :=
  not_not.mp (mt hs.errIff.mp h)

-- START (44_encoder.md R111).

theorem errorCode_ne_zero (e : ErrorKind) : errorCode e ≠ 0 := by cases e <;> decide

theorem errorCode_ne_three (e : ErrorKind) : errorCode e ≠ 3 := by cases e <;> decide

section Memories

variable {s : State} (hsrc : Memory.wf Config.srcBytes s.src = true) (hout : Memory.wf Config.outBytes s.out = true)
include hsrc hout

theorem inv_raise (e : ErrorKind) : Inv (s.emptyStream.raise e) :=
  inv_of_quiet (.inr rfl) ⟨rfl, rfl, rfl⟩ ⟨fun _ => rfl, fun _ => errorCode_ne_zero e⟩ (errorCode_ne_three e) hsrc hout

theorem inv_accept (hc : configValid s = true) (hd : dimMatch s = true) : Inv s.emptyStream.accept := by
  obtain ⟨hw, hh⟩ := (dimMatch_iff s).mp hd
  exact (inRun_accept ((configValid_iff s).mp hc) hw hh).inv hsrc hout rfl (by simp)

end Memories

theorem Inv.start {s : State} (hs : Inv s) : Inv (start s) := by
  rcases start_cases s with ⟨-, h⟩ | ⟨-, -, h⟩ | ⟨-, -, -, h⟩ | ⟨-, hc, hd, h⟩ <;> rw [h]
  · exact hs
  · exact inv_raise hs.srcWf hs.outWf _
  · exact inv_raise hs.srcWf hs.outWf _
  · exact inv_accept hs.srcWf hs.outWf hc hd

-- The group step (R112) and a whole run of an operation of the selector map.

/-- Every byte below the next OUT_CNT is written: the new one by the step, the others before it. -/
theorem Inv.written_groupStep {s : State} {op : EncOp} (hs : Inv s) (hr : InRun s) (hop : Selects s.mode s.palsel op)
    {k : Nat} (hk : k < (groupStep op s).outCnt.toNat) : ∃ v, Memory.read? (groupStep op s).out k = some v := by
  rw [groupStep_outCnt_toNat hr hop] at hk
  rw [groupStep_read]
  split
  next => exact ⟨_, rfl⟩
  next hne => exact hs.written k (by omega)

theorem Inv.groupStep {s : State} {op : EncOp} (hs : Inv s) (hr : InRun s) (hop : Selects s.mode s.palsel op) :
    Inv (groupStep op s) := by
  have hsrc : Memory.wf Config.srcBytes (Machine.groupStep op s).src = true := by rw [groupStep_src]; exact hs.srcWf
  have hout : Memory.wf Config.outBytes (Machine.groupStep op s).out = true := by
    rw [groupStep_out]; exact Memory.wf_write _ _ _ _ (hr.outCnt_lt hop) hs.outWf
  have herr : (Machine.groupStep op s).errcode = 0 := by
    rw [groupStep_errcode]; exact hs.errcode_eq_zero (by simp [hr.phase])
  have hwritten := fun k hk => hs.written_groupStep hr hop (k := k) hk
  have hcnt := groupStep_outCnt_toNat hr hop
  have hle : s.outCnt.toNat + 1 ≤ total op s.w s.h := hr.outCnt_lt_total hop
  obtain hlt | hlast := Nat.lt_or_eq_of_le hle
  · exact (inRun_groupStep hr hop hlt).inv hsrc hout herr hwritten
  · obtain ⟨hdone, hy, hg⟩ := groupStep_last hr hop hlast
    rw [hlast, total_eq_spec hop] at hcnt
    exact inv_of_done hdone hr.config hcnt hy hg hsrc hout herr hwritten

/-- The steps of a run, the last one included, keep the invariant. -/
theorem Inv.groupSteps {s : State} {op : EncOp} (hs : Inv s) (hr : InRun s) (hop : Selects s.mode s.palsel op)
    {k : Nat} (hk : s.outCnt.toNat + k ≤ total op s.w s.h) : Inv (groupSteps op k s) := by
  induction k with
  | zero => exact hs
  | succ k ih =>
    rw [groupSteps_succ]
    exact (ih (by omega)).groupStep (inRun_groupSteps hr hop hk).1 (selects_groupSteps hop k)

/-- A run that has just been accepted is taken to its end. -/
theorem Inv.finishRun {s : State} (hs : Inv s) (hr : InRun s) (h0 : s.outCnt = 0) : Inv (finishRun s) := by
  obtain ⟨op, hop⟩ := selects_of_legal hr.config
  rw [finishRun_eq ((op_iff s op).mpr hop)]
  exact hs.groupSteps hr hop (by simp [h0])

theorem Inv.runSelected {s : State} (hs : Inv s) (m p : BitVec 2) : Inv (runSelected m p s) := by
  rcases runSelected_cases m p s with ⟨-, h⟩ | ⟨-, -, h⟩ | ⟨-, -, -, h⟩ | ⟨-, hc, hd, h⟩ <;> rw [h]
  · exact hs
  · exact inv_raise (s := s.select m p) hs.srcWf hs.outWf _
  · exact inv_raise (s := s.select m p) hs.srcWf hs.outWf _
  · have haccept : Inv (s.select m p).emptyStream.accept := inv_accept hs.srcWf hs.outWf hc hd
    exact haccept.finishRun (haccept.inRun rfl) rfl

-- The other operations.

theorem Inv.withReply_drew {s : State} (hs : Inv s) (r : Reply) (n : Nat) : Inv ((s.withReply r).drew n) :=
  { hs with inRun := fun h => (hs.inRun h).withReply_drew r n }

/-- Outside RUN the invariant says nothing of the configuration registers. -/
theorem Inv.configure {s : State} (hs : Inv s) (hr : s.phase ≠ .run) (mode palsel : BitVec 2)
    (cfgW cfgH imgW imgH : RegWord) :
    Inv { s with mode := mode, palsel := palsel, cfgW := cfgW, cfgH := cfgH, imgW := imgW, imgH := imgH } :=
  { hs with inRun := fun h => absurd h hr }

/-- The invariant asks of SRC its canonical form and no more. -/
theorem Inv.withSrc {s : State} (hs : Inv s) {m : Memory} (hm : Memory.wf Config.srcBytes m = true) :
    Inv { s with src := m } :=
  { hs with
    srcWf := hm
    inRun := fun h => let hr := hs.inRun h; ⟨hr.phase, hr.config, hr.dims, hr.row, hr.group, hr.count⟩ }

theorem Inv.withScript {s : State} (hs : Inv s) (requests : List Request) : Inv { s with script := requests } :=
  { hs with inRun := fun h => let hr := hs.inRun h; ⟨hr.phase, hr.config, hr.dims, hr.row, hr.group, hr.count⟩ }

theorem inv_resetBlock {s : State} (hsrc : Memory.wf Config.srcBytes s.src = true) : Inv (resetBlock s) :=
  inv_of_quiet (.inl rfl) ⟨rfl, rfl, rfl⟩ (by simp) (by simp) hsrc (Memory.wf_nil _)

/-- Settles O45: the reset state is IDLE with an empty stream and empty memories. -/
theorem resetSatisfiesInvariant : Obligations.ResetSatisfiesInvariant :=
  inv_of_quiet (.inl rfl) ⟨rfl, rfl, rfl⟩ (by simp) (by simp) (Memory.wf_nil _) (Memory.wf_nil _)

-- Every step keeps the invariant.

theorem Inv.exec {s t : State} {i : Instr} (hs : Inv s) (h : exec i s = .next t) : Inv t := by
  rcases exec_cases h with ⟨-, r, n, rfl⟩ | ⟨-, rfl⟩ | rfl | ⟨m, p, -, rfl⟩ | ⟨hr, hwrite⟩ | ⟨-, hr, op, hready, rfl⟩ |
    ⟨a, v, -, ha, rfl⟩ | ⟨-, rfl⟩
  · exact hs.withReply_drew r n
  · exact hs.start
  · exact hs
  · exact hs.runSelected m p
  · rcases hwrite with ⟨d, -, rfl⟩ | ⟨d, -, rfl⟩ | ⟨d, -, rfl⟩ | ⟨d, -, rfl⟩ | ⟨d, -, rfl⟩ | ⟨d, -, rfl⟩ <;>
      exact hs.configure hr _ _ _ _ _ _
  · exact hs.groupStep (hs.inRun hr) ((runReady_iff s op).mp hready).1
  · exact hs.withSrc (Memory.wf_write _ _ _ _ ha hs.srcWf)
  · exact inv_resetBlock hs.srcWf

/-- Settles O44: the step is an operation, on the state with the request taken, or nothing. -/
theorem stepKeepsInvariant : Obligations.StepKeepsInvariant := by
  intro s t hs hstep
  rcases step_cases s with ⟨-, -, h⟩ | ⟨-, -, h⟩ | ⟨r, rest, i, -, -, h⟩ | ⟨r, rest, e, -, -, h⟩ <;> rw [h] at hstep
  · exact hs.exec hstep
  · cases hstep; exact hs
  · exact (hs.withScript rest).exec hstep
  · cases hstep

-- What the invariant says of the registers (R13, R14, R20).

theorem Inv.errcode_le {s : State} (hs : Inv s) : s.errcode.toNat ≤ 2 := by
  have h3 := hs.noCode3
  bv_omega

/-- The stride and the total of a legal configuration, as the rules write them. -/
theorem ConfigLegal.bounds {mode palsel : BitVec 2} {w h : Nat} (hc : ConfigLegal mode palsel w h) :
    h ≤ 192 ∧ specStride mode w ≤ 32 ∧ specStride mode w * h ≤ 6144 := by
  obtain ⟨op, hop⟩ := selects_of_legal hc
  have hv := (sizesValid_iff hop w h).mpr hc
  rw [← total_eq_spec hop, ← stride_eq_spec hop]
  exact ⟨(size_ranges hv).2.2, (stride_bounds hv).2, (total_bounds hv).2⟩

theorem InRun.ranges {s : State} (hs : InRun s) :
    s.posY.toNat ≤ 192 ∧ s.posG.toNat ≤ 31 ∧ s.outCnt.toNat < 6144 := by
  obtain ⟨op, hop⟩ := selects_of_legal hs.config
  obtain ⟨hheight, hstride, -⟩ := hs.config.bounds
  have hrow := hs.row
  have hgroup := hs.group
  exact ⟨by omega, by omega, hs.outCnt_lt hop⟩

theorem Inv.ranges {s : State} (hs : Inv s) : s.posY.toNat ≤ 192 ∧ s.posG.toNat ≤ 31 ∧ s.outCnt.toNat ≤ 6144 := by
  have hquiet : s.phase = .idle ∨ s.phase = .err → s.posY.toNat ≤ 192 ∧ s.posG.toNat ≤ 31 ∧ s.outCnt.toNat ≤ 6144 := by
    intro h
    obtain ⟨hcnt, hy, hg⟩ := hs.quiet h
    simp [hcnt, hy, hg]
  cases hphase : s.phase with
  | idle => exact hquiet (.inl hphase)
  | err => exact hquiet (.inr hphase)
  | run =>
    obtain ⟨hy, hg, hcnt⟩ := (hs.inRun hphase).ranges
    exact ⟨hy, hg, hcnt.le⟩
  | done =>
    obtain ⟨mode, palsel, w, h, hc, hcnt, hy, hg⟩ := hs.inDone hphase
    obtain ⟨hheight, -, htotal⟩ := hc.bounds
    exact ⟨hy ▸ hheight, by simp [hg], hcnt ▸ htotal⟩

/-- Settles O46: in RUN the ranges are those of a position inside the image, in DONE those of its end, and else 0. -/
theorem registerRanges : Obligations.RegisterRanges := by
  intro s hs
  obtain ⟨hy, hg, hcnt⟩ := hs.ranges
  refine ⟨hs.errcode_le, hy, hg, hcnt, fun hr => ?_⟩
  obtain ⟨-, -, hlt⟩ := (hs.inRun hr).ranges
  exact ⟨hlt, (hs.inRun hr).row⟩

-- The result of a run (70_reset_and_hazards.md R195).

theorem runResult_ne_none_iff (s : State) : runResult s ≠ none ↔ s.phase = .done ∨ s.phase = .err := by
  unfold runResult
  cases s.phase <;> simp

theorem runResult_of_done {s : State} (h : s.phase = .done) : runResult s = some (.stream (streamOf s)) := by
  simp [runResult, h]

theorem runResult_of_err {s : State} (h : s.phase = .err) :
    runResult s = some (.failure s.errcode s.cfgW s.cfgH s.imgW s.imgH) := by
  simp [runResult, h]

theorem streamOf_length (s : State) : (streamOf s).length = s.outCnt.toNat := by simp [streamOf]

theorem streamOf_getElem? {s : State} {k : Nat} (hk : k < s.outCnt.toNat) :
    (streamOf s)[k]? = some (Memory.read? s.out k) := by
  simp [streamOf, hk]

/-- Every entry of the stream is a byte that was written. -/
theorem Inv.exists_streamOf_eq_map {s : State} (hs : Inv s) : ∃ bytes : List Byte, streamOf s = bytes.map some := by
  have hrange : streamOf s ∈ Set.range (List.map some) := by
    rw [Set.range_list_map]
    intro x hx
    obtain ⟨k, hk, rfl⟩ := List.mem_map.mp hx
    obtain ⟨v, hv⟩ := hs.written k (List.mem_range.mp hk)
    exact ⟨v, hv.symm⟩
  obtain ⟨bytes, hbytes⟩ := hrange
  exact ⟨bytes, hbytes.symm⟩

theorem Inv.errcode_of_err {s : State} (hs : Inv s) (h : s.phase = .err) : s.errcode = 1 ∨ s.errcode = 2 := by
  have h0 := hs.errIff.mpr h
  have h3 := hs.noCode3
  bv_omega

/-- Settles O47: the stream of DONE has written bytes only, the one of ERR is empty. -/
theorem endedRunHasItsResult : Obligations.EndedRunHasItsResult := by
  intro s hs
  refine ⟨runResult_ne_none_iff s, fun hdone => ?_, fun herr => ⟨?_, hs.errcode_of_err herr, runResult_of_err herr⟩⟩
  · obtain ⟨bytes, hbytes⟩ := hs.exists_streamOf_eq_map
    refine ⟨bytes, by rw [runResult_of_done hdone, hbytes], ?_, fun k hk => ?_⟩
    · rw [← streamOf_length, hbytes, List.length_map]
    · have hget := streamOf_getElem? hk
      rw [hbytes, List.getElem?_map] at hget
      obtain ⟨v, hv, hread⟩ := Option.map_eq_some_iff.mp hget
      rw [hv, ← hread]
  · obtain ⟨hcnt, -⟩ := hs.quiet (.inr herr)
    simp [streamOf, hcnt]

/-- Settles O48: STEP completes in RUN because the invariant makes the state one of a run, and outside RUN it does nothing. -/
theorem everyOperationCompletes : Obligations.EveryOperationCompletes := by
  intro s i hs hwf
  by_cases hi : i = .step
  · subst hi
    by_cases hr : s.phase = .run
    · obtain ⟨op, hop⟩ := selects_of_legal (hs.inRun hr).config
      exact ⟨_, exec_step_of_inRun (hs.inRun hr) hop⟩
    · exact ⟨s, if_neg hr⟩
  · exact exec_completes s hwf hi

-- The canonical form of a memory (20_memory.md R30).

theorem Memory.wf_cons {size a : Nat} {v : Byte} {m : Memory} (h : Memory.wf size ((a, v) :: m) = true) :
    (∀ c ∈ m, a < c.1) ∧ Memory.wf size m = true := by
  simp only [Memory.wf, Bool.and_eq_true, List.all_eq_true, decide_eq_true_eq] at h
  obtain ⟨⟨-, hall⟩, hrest⟩ := h
  exact ⟨hall, hrest⟩

theorem Memory.mem_of_read? {m : Memory} {a : Nat} {v : Byte} (h : Memory.read? m a = some v) : (a, v) ∈ m := by
  induction m with
  | nil => cases h
  | cons c rest ih =>
    obtain ⟨b, u⟩ := c
    rw [Memory.read?] at h
    split at h
    next hab => cases h; cases hab; exact List.mem_cons_self
    next => exact List.mem_cons_of_mem _ (ih h)

@[simp] theorem Memory.read?_cons_self (a : Nat) (v : Byte) (m : Memory) : Memory.read? ((a, v) :: m) a = some v :=
  if_pos rfl

/-- The first offset of a canonical memory is its least. -/
theorem Memory.head_le_of_read? {size a b : Nat} {u v : Byte} {m : Memory} (h : Memory.wf size ((b, u) :: m) = true)
    (ha : Memory.read? ((b, u) :: m) a = some v) : b ≤ a := by
  obtain ⟨habove, -⟩ := Memory.wf_cons h
  rcases List.mem_cons.mp (Memory.mem_of_read? ha) with heq | hmem
  · cases heq; exact Nat.le_refl _
  · exact (habove _ hmem).le

/-- An offset below all that are listed reads as not written. -/
theorem Memory.read?_of_above {m : Memory} {a : Nat} (h : ∀ c ∈ m, a < c.1) : Memory.read? m a = none := by
  cases hread : Memory.read? m a with
  | none => rfl
  | some v => exact absurd (h _ (Memory.mem_of_read? hread)) (Nat.lt_irrefl _)

/-- Two canonical memories with the same first cell read the same behind it if they read the same. -/
theorem Memory.read?_tail {size a : Nat} {v : Byte} {m m' : Memory} (hm : Memory.wf size ((a, v) :: m) = true)
    (hm' : Memory.wf size ((a, v) :: m') = true)
    (h : ∀ b, Memory.read? ((a, v) :: m) b = Memory.read? ((a, v) :: m') b) (b : Nat) :
    Memory.read? m b = Memory.read? m' b := by
  by_cases hb : b = a
  · subst hb
    rw [Memory.read?_of_above (Memory.wf_cons hm).1, Memory.read?_of_above (Memory.wf_cons hm').1]
  · simpa [Memory.read?, hb] using h b

/-- Settles O49: the first cells agree, because each is the least one of its memory, and then the rests do. -/
theorem canonicalMemoriesAreEqual : Obligations.CanonicalMemoriesAreEqual := by
  intro size m
  induction m with
  | nil =>
    intro m' _ _ h
    cases m' with
    | nil => rfl
    | cons c rest => exact absurd (h c.1) (by simp [Memory.read?])
  | cons c rest ih =>
    obtain ⟨a, v⟩ := c
    intro m' hm hm' h
    cases m' with
    | nil => exact absurd (h a) (by simp [Memory.read?])
    | cons c' rest' =>
      obtain ⟨b, u⟩ := c'
      have hba : b ≤ a := Memory.head_le_of_read? hm' ((h a).symm.trans (Memory.read?_cons_self a v rest))
      have hab : a ≤ b := Memory.head_le_of_read? hm ((h b).trans (Memory.read?_cons_self b u rest'))
      obtain rfl := Nat.le_antisymm hab hba
      obtain rfl : v = u := by simpa using h a
      rw [ih rest' (Memory.wf_cons hm).2 (Memory.wf_cons hm').2 (Memory.read?_tail hm hm' h)]

end Sys2Proof.Machine
end

section
/-! PROOFS. The rules of the whole machine, one for each part of the state: what can change SRC, the configuration, the scan position, the
stream, PHASE and ERRCODE (10_state.md, 20_memory.md, 60_exceptions.md), and what a read leaves. -/

namespace Sys2Proof.Machine

-- What an operation does to the progress of a run.

/-- PHASE, ERRCODE, the scan position and the stream are the same in t as in s. -/
structure KeepsProgress (s t : State) : Prop where
  phase : t.phase = s.phase
  errcode : t.errcode = s.errcode
  posY : t.posY = s.posY
  posG : t.posG = s.posG
  outCnt : t.outCnt = s.outCnt
  out : t.out = s.out

/-- Only START, the operations of the selector map, STEP in RUN and RESET touch the progress of a run. -/
theorem exec_progress_cases {s t : State} {i : Instr} (h : exec i s = .next t) :
    KeepsProgress s t ∨ (i = .start ∧ t = start s) ∨ (∃ m p, i.format = .sel ∧ t = runSelected m p s) ∨
      (i = .step ∧ s.phase = .run ∧ ∃ op, runReady s = some op ∧ t = groupStep op s) ∨
      (i = .reset ∧ t = resetBlock s) := by
  rcases exec_cases h with ⟨-, r, n, rfl⟩ | hstart | rfl | hsel | ⟨-, hwrite⟩ | hstep | ⟨a, v, -, -, rfl⟩ | hreset
  · exact .inl ⟨rfl, rfl, rfl, rfl, rfl, rfl⟩
  · exact .inr (.inl hstart)
  · exact .inl ⟨rfl, rfl, rfl, rfl, rfl, rfl⟩
  · exact .inr (.inr (.inl hsel))
  · rcases hwrite with ⟨d, -, rfl⟩ | ⟨d, -, rfl⟩ | ⟨d, -, rfl⟩ | ⟨d, -, rfl⟩ | ⟨d, -, rfl⟩ | ⟨d, -, rfl⟩ <;>
      exact .inl ⟨rfl, rfl, rfl, rfl, rfl, rfl⟩
  · exact .inr (.inr (.inr (.inl hstep)))
  · exact .inl ⟨rfl, rfl, rfl, rfl, rfl, rfl⟩
  · exact .inr (.inr (.inr (.inr hreset)))

theorem isStart_start : isStart .start = true := rfl

theorem isStart_of_sel {i : Instr} (h : i.format = .sel) : isStart i = true := by simp [isStart, h]

theorem runSelected_of_run {s : State} (hr : s.phase = .run) (m p : BitVec 2) : runSelected m p s = s := if_pos hr

-- SRC (44_encoder.md R118) and the configuration (10_state.md R15 to R17).

/-- Settles O50: of the eight things an operation can do, SrcWrite alone writes SRC. -/
theorem onlySrcWriteChangesSrc : Obligations.OnlySrcWriteChangesSrc := by
  intro s t i h hi
  rcases exec_cases h with ⟨-, r, n, rfl⟩ | ⟨-, rfl⟩ | rfl | ⟨m, p, -, rfl⟩ | ⟨-, hwrite⟩ | ⟨-, -, op, -, rfl⟩ |
    ⟨a, v, hsrc, -⟩ | ⟨-, rfl⟩
  · rfl
  · exact start_src s
  · rfl
  · exact (runSelected_frame m p s).1
  · rcases hwrite with ⟨d, -, rfl⟩ | ⟨d, -, rfl⟩ | ⟨d, -, rfl⟩ | ⟨d, -, rfl⟩ | ⟨d, -, rfl⟩ | ⟨d, -, rfl⟩ <;> rfl
  · exact groupStep_src op s
  · exact absurd hsrc (hi a v)
  · rfl

/-- The six configuration registers are the same in t as in s. -/
structure KeepsConfig (s t : State) : Prop where
  mode : t.mode = s.mode
  palsel : t.palsel = s.palsel
  cfgW : t.cfgW = s.cfgW
  cfgH : t.cfgH = s.cfgH
  imgW : t.imgW = s.imgW
  imgH : t.imgH = s.imgH

/-- Outside RUN the configuration is written, by the register writes and by the operations of the selector map; every other operation
but RESET, and those in RUN too, keeps it. -/
theorem exec_config_cases {s t : State} {i : Instr} (h : exec i s = .next t) (hi : i ≠ .reset) :
    KeepsConfig s t ∨ (s.phase ≠ .run ∧ ∃ m p, i.format = .sel ∧ t = runSelected m p s) ∨
      (s.phase ≠ .run ∧ ((∃ d, i = .wrMode d ∧ t = { s with mode := d }) ∨
        (∃ d, i = .wrPalsel d ∧ t = { s with palsel := d }) ∨
        (∃ d, i = .wrCfgW d ∧ t = { s with cfgW := d }) ∨ (∃ d, i = .wrCfgH d ∧ t = { s with cfgH := d }) ∨
        (∃ d, i = .wrImgW d ∧ t = { s with imgW := d }) ∨ (∃ d, i = .wrImgH d ∧ t = { s with imgH := d }))) := by
  rcases exec_cases h with ⟨-, r, n, rfl⟩ | ⟨-, rfl⟩ | rfl | ⟨m, p, hsel, rfl⟩ | hwrite | ⟨-, -, op, -, rfl⟩ |
    ⟨a, v, -, -, rfl⟩ | ⟨hreset, -⟩
  · exact .inl ⟨rfl, rfl, rfl, rfl, rfl, rfl⟩
  · exact .inl ⟨start_mode s, start_palsel s, start_cfgW s, start_cfgH s, start_imgW s, start_imgH s⟩
  · exact .inl ⟨rfl, rfl, rfl, rfl, rfl, rfl⟩
  · by_cases hr : s.phase = .run
    · rw [runSelected_of_run hr]; exact .inl ⟨rfl, rfl, rfl, rfl, rfl, rfl⟩
    · exact .inr (.inl ⟨hr, m, p, hsel, rfl⟩)
  · exact .inr (.inr hwrite)
  · exact .inl ⟨groupStep_mode op s, groupStep_palsel op s, groupStep_cfgW op s, groupStep_cfgH op s, groupStep_imgW op s,
      groupStep_imgH op s⟩
  · exact .inl ⟨rfl, rfl, rfl, rfl, rfl, rfl⟩
  · exact absurd hreset hi

/-- Settles O51: an operation of the selector map leaves the four sizes, and a register write all registers but its own. -/
theorem configurationFixedInRun : Obligations.ConfigurationFixedInRun := by
  intro s t i h hi
  rcases exec_config_cases h hi with ⟨hmode, hpalsel, hcfgW, hcfgH, himgW, himgH⟩ | ⟨hr, m, p, hsel, rfl⟩ | ⟨hr, hwrite⟩
  · exact ⟨fun _ => ⟨hmode, hpalsel, hcfgW, hcfgH, himgW, himgH⟩, fun _ _ => hmode, fun _ _ => hpalsel, fun _ => hcfgW,
      fun _ => hcfgH, fun _ => himgW, fun _ => himgH⟩
  · obtain ⟨-, hcfgW, hcfgH, himgW, himgH⟩ := runSelected_frame m p s
    exact ⟨fun hr' => absurd hr' hr, fun _ hns => absurd hsel hns, fun _ hns => absurd hsel hns, fun _ => hcfgW,
      fun _ => hcfgH, fun _ => himgW, fun _ => himgH⟩
  · refine ⟨fun hr' => absurd hr' hr, ?_⟩
    rcases hwrite with ⟨d, rfl, rfl⟩ | ⟨d, rfl, rfl⟩ | ⟨d, rfl, rfl⟩ | ⟨d, rfl, rfl⟩ | ⟨d, rfl, rfl⟩ | ⟨d, rfl, rfl⟩ <;>
      simp

-- The scan position (10_state.md R13) and the stream (20_memory.md R36, R37).

/-- START leaves the position, in RUN, or sets it to (0, 0). -/
theorem start_pos (s : State) :
    ((start s).posY = s.posY ∧ (start s).posG = s.posG) ∨ ((start s).posY = 0 ∧ (start s).posG = 0) := by
  rcases start_cases s with ⟨-, h⟩ | ⟨-, -, h⟩ | ⟨-, -, -, h⟩ | ⟨-, -, -, h⟩ <;> rw [h]
  · exact .inl ⟨rfl, rfl⟩
  all_goals exact .inr ⟨rfl, rfl⟩

/-- A group step goes to the next group of the row, or to the first one of the next row. -/
theorem groupStep_pos_successor {s : State} {op : EncOp} (hop : Selects s.mode s.palsel op) :
    (s.posG.toNat + 1 < specStride s.mode s.cfgW.toNat ∧
        (groupStep op s).posY = s.posY ∧ (groupStep op s).posG = s.posG + 1) ∨
      (specStride s.mode s.cfgW.toNat ≤ s.posG.toNat + 1 ∧
        (groupStep op s).posY = s.posY + 1 ∧ (groupStep op s).posG = 0) := by
  rw [groupStep_posY, groupStep_posG, stride_eq_spec hop]
  by_cases hlt : s.posG.toNat + 1 < specStride s.mode s.cfgW.toNat
  · exact .inl ⟨hlt, if_pos hlt, if_pos hlt⟩
  · exact .inr ⟨not_lt.mp hlt, if_neg hlt, if_neg hlt⟩

/-- Settles O52: START and RESET set the position to (0, 0), STEP in RUN to its successor. -/
theorem scanPositionStaysOrAdvances : Obligations.ScanPositionStaysOrAdvances := by
  intro s t i h hnsel
  rcases exec_progress_cases h with hk | ⟨-, rfl⟩ | ⟨m, p, hsel, -⟩ | ⟨hstep, hr, op, hready, rfl⟩ | ⟨-, rfl⟩
  · exact .inl ⟨hk.posY, hk.posG⟩
  · exact (start_pos s).imp_right .inl
  · exact absurd hsel hnsel
  · obtain ⟨hop, -⟩ := (runReady_iff s op).mp hready
    exact .inr (.inr ⟨hstep, hr, groupStep_pos_successor hop⟩)
  · exact .inr (.inl ⟨rfl, rfl⟩)

/-- OUT has room for the byte of a group step that is taken, so OUT_CNT rises and no byte below it is written. -/
theorem groupStep_stream_grows {s : State} {op : EncOp} (hready : runReady s = some op) :
    s.outCnt.toNat ≤ (groupStep op s).outCnt.toNat ∧
      ∀ k, k < s.outCnt.toNat → Memory.read? (groupStep op s).out k = Memory.read? s.out k := by
  obtain ⟨-, -, -, -, hroom⟩ := (runReady_iff s op).mp hready
  refine ⟨?_, fun k hk => by rw [groupStep_read, if_neg hk.ne]⟩
  have hlt : s.outCnt.toNat < 6144 := hroom
  rw [groupStep_outCnt]
  bv_omega

/-- Settles O53: without START and RESET the stream stays, or STEP appends to it. -/
theorem streamBytesAreFinal : Obligations.StreamBytesAreFinal := by
  intro s t i h hnstart hnreset
  rcases exec_progress_cases h with hk | ⟨rfl, -⟩ | ⟨m, p, hsel, -⟩ | ⟨hstep, -, op, hready, rfl⟩ | ⟨hreset, -⟩
  · exact ⟨hk.outCnt ▸ Nat.le_refl _, fun k _ => by rw [hk.out], fun _ => ⟨hk.out, hk.outCnt⟩⟩
  · exact absurd isStart_start (by simp [hnstart])
  · exact absurd (isStart_of_sel hsel) (by simp [hnstart])
  · obtain ⟨hcnt, hread⟩ := groupStep_stream_grows hready
    exact ⟨hcnt, hread, fun hnstep => absurd hstep hnstep⟩
  · exact absurd hreset hnreset

-- PHASE and ERRCODE (44_encoder.md R113, 60_exceptions.md R161, R162, R166, R168).

/-- A group step in RUN stays there, or ends the run at (CFG_H, 0). -/
theorem groupStep_phase_cases {s : State} (op : EncOp) (hr : s.phase = .run) :
    (groupStep op s).phase = .run ∨
      ((groupStep op s).phase = .done ∧ (groupStep op s).posY.toNat = s.h ∧ (groupStep op s).posG = 0) := by
  rw [groupStep_phase, hr]
  split
  next hend => exact .inr ⟨rfl, hend⟩
  next => exact .inl rfl

/-- Settles O54: in RUN the STARTs are ignored, which leaves the last STEP and RESET. -/
theorem runLeftOnlyByStepOrReset : Obligations.RunLeftOnlyByStepOrReset := by
  intro s t i h hr hleft
  rcases exec_progress_cases h with hk | ⟨-, rfl⟩ | ⟨m, p, -, rfl⟩ | ⟨hstep, -, op, -, rfl⟩ | ⟨hreset, -⟩
  · exact absurd (hk.phase.trans hr) hleft
  · rw [start_of_run hr] at hleft; exact absurd hr hleft
  · rw [runSelected_of_run hr] at hleft; exact absurd hr hleft
  · rcases groupStep_phase_cases op hr with hrun | hdone
    · exact absurd hrun hleft
    · exact .inr ⟨hstep, hdone⟩
  · exact .inl hreset

/-- Settles O55: STEP is taken in RUN only. -/
theorem errorLeftOnlyByStartOrReset : Obligations.ErrorLeftOnlyByStartOrReset := by
  intro s t i h herr hleft
  rcases exec_progress_cases h with hk | ⟨rfl, -⟩ | ⟨m, p, hsel, -⟩ | ⟨-, hr, -⟩ | ⟨hreset, -⟩
  · exact absurd (hk.phase.trans herr) hleft
  · exact .inl isStart_start
  · exact .inl (isStart_of_sel hsel)
  · exact absurd (herr.symm.trans hr) (by decide)
  · exact .inr hreset

/-- Settles O56: no operation but a START outside RUN and RESET changes ERRCODE, and no other leads to ERR. -/
theorem errorsOnlyFromStart : Obligations.ErrorsOnlyFromStart := by
  intro s t i h
  rcases exec_progress_cases h with hk | ⟨rfl, rfl⟩ | ⟨m, p, hsel, rfl⟩ | ⟨-, hr, op, -, rfl⟩ | ⟨hreset, rfl⟩
  · exact ⟨fun hne => absurd hk.errcode hne, fun herr hnerr => absurd (hk.phase.symm.trans herr) hnerr⟩
  · by_cases hr : s.phase = .run
    · rw [start_of_run hr]
      exact ⟨fun hne => absurd rfl hne, fun herr hnerr => absurd herr hnerr⟩
    · exact ⟨fun _ => .inl ⟨isStart_start, hr⟩, fun _ _ => ⟨isStart_start, hr⟩⟩
  · by_cases hr : s.phase = .run
    · rw [runSelected_of_run hr]
      exact ⟨fun hne => absurd rfl hne, fun herr hnerr => absurd herr hnerr⟩
    · exact ⟨fun _ => .inl ⟨isStart_of_sel hsel, hr⟩, fun _ _ => ⟨isStart_of_sel hsel, hr⟩⟩
  · refine ⟨fun hne => absurd (groupStep_errcode op s) hne, fun herr => ?_⟩
    rcases groupStep_phase_cases op hr with hrun | ⟨hdone, -⟩
    · exact absurd (herr.symm.trans hrun) (by decide)
    · exact absurd (herr.symm.trans hdone) (by decide)
  · exact ⟨fun _ => .inr hreset, fun herr => absurd herr (by simp)⟩

-- The reads (45_host_interface.md R121, R149).

/-- Settles O57: a read hands over a value and counts the free values drawn. -/
theorem readsChangeOnlyTheReply : Obligations.ReadsChangeOnlyTheReply := by
  intro s t i hi h
  obtain ⟨r, n, rfl⟩ := exec_read_frame hi h
  exact ⟨rfl, Nat.le_add_right s.draws n⟩

end Sys2Proof.Machine
end

section
/-! PROOFS. The units that read SRC (42_pack4.md, 43_pack1.md): the fields of a group byte, what CODE4, GROUP4, ROW4, GROUP1 and ROW1 return inside
the image and outside it (log 8), and the units under a selector that does not make them active. -/

namespace Sys2Proof.Machine

-- The bytes (R87, R88, R98, R99).

/-- Settles O27: the field of slot i is the code of hardware pixel 4g + i. -/
theorem group4FieldsAreCodes : Obligations.Group4FieldsAreCodes := fun m P w y g _ => group4Of_field m P w y g

/-- Settles O31: bit 7 - k is the decision of pixel 8g + k, which is 1 for a luma above 127. -/
theorem group1BitsAreDecisions : Obligations.Group1BitsAreDecisions := by
  intro m w y g k hk
  rw [group1Of_bit m w y g hk, bit1Of_eq_one_iff]

-- The range of the operands (R86, R87, R89, R98, R100).

theorem inRangeOr_of_true (s : State) {b : Bool} (hb : b = true) (r f : Reply) (n : Nat) :
    inRangeOr b s r f n = s.withReply r := if_pos hb

theorem inRangeOr_of_false (s : State) {b : Bool} (hb : b = false) (r f : Reply) (n : Nat) :
    inRangeOr b s r f n = (s.withReply f).drew n := by
  simp [inRangeOr, hb]

/-- A row outside the image, or a configuration that has none. -/
theorem rowInImage_eq_false_iff (s : State) (y : BitVec 8) :
    rowInImage s y = false ↔
      ¬ ConfigLegal s.mode s.palsel s.cfgW.toNat s.cfgH.toNat ∨ s.cfgH.toNat ≤ y.toNat := by
  rw [← Bool.not_eq_true, rowInImage_iff, not_and_or, not_lt]

/-- An operand of a row outside its range, or its row outside the image. -/
theorem rowInImage_and_eq_false {s : State} {y : BitVec 8} {a n : Nat}
    (h : ¬ ConfigLegal s.mode s.palsel s.cfgW.toNat s.cfgH.toNat ∨ s.cfgH.toNat ≤ y.toNat ∨ n ≤ a) :
    (rowInImage s y && decide (a < n)) = false := by
  rw [Bool.and_eq_false_iff, rowInImage_eq_false_iff, decide_eq_false_iff_not, not_lt, or_assoc]
  exact h

theorem rowInImage_and_eq_true {s : State} {y : BitVec 8} {a n : Nat}
    (hc : ConfigLegal s.mode s.palsel s.cfgW.toNat s.cfgH.toNat) (hy : y.toNat < s.cfgH.toNat) (ha : a < n) :
    (rowInImage s y && decide (a < n)) = true := by
  rw [Bool.and_eq_true, rowInImage_iff, decide_eq_true_eq]
  exact ⟨⟨hc, hy⟩, ha⟩

-- The units under the selectors that make them active.

section FourColor

variable {s : State} {P : Palette} (h : SelectsFourColor s P)
include h

theorem exec_code4_active (y : BitVec 8) (j : BitVec 7) :
    exec (.code4 y j) s = .next (inRangeOr (rowInImage s y && decide (j.toNat < mergedWidth s.w)) s
      (.code (code4Of s.src P s.w y.toNat j.toNat)) (.code (Config.codeUnspecified s.draws)) 1) :=
  unit4_active h _

theorem exec_group4_active (y : BitVec 8) (g : BitVec 6) :
    exec (.group4 y g) s = .next (inRangeOr (rowInImage s y && decide (g.toNat < stride4 s.w)) s
      (.groupByte (group4Of s.src P s.w y.toNat g.toNat)) (.groupByte (Config.unitUnspecified s.draws)) 1) :=
  unit4_active h _

theorem exec_row4_active (y : BitVec 8) :
    exec (.row4 y) s = .next (inRangeOr (rowInImage s y) s (.row (row4Of s.src P s.w y.toNat))
      (.row (freeBytes s.draws (stride4 s.w))) (stride4 s.w)) :=
  unit4_active h _

end FourColor

theorem exec_group1_active {s : State} (h : SelectsMonochrome s) (y : BitVec 8) (g : BitVec 6) :
    exec (.group1 y g) s = .next (inRangeOr (rowInImage s y && decide (g.toNat < stride1 s.w)) s
      (.groupByte (group1Of s.src s.w y.toNat g.toNat)) (.groupByte (Config.unitUnspecified s.draws)) 1) :=
  unit1_active h _

/-- Settles O26: inside the image the three units return their functions of SRC. -/
theorem fourColorUnitsComplete : Obligations.FourColorUnitsComplete := by
  intro s P y h hc hy
  refine ⟨fun j hj => (exec_code4_active h y j).trans ?_, fun g hg => (exec_group4_active h y g).trans ?_,
    (exec_row4_active h y).trans ?_⟩
  · exact congrArg Host.Outcome.next (inRangeOr_of_true s (rowInImage_and_eq_true hc hy hj) _ _ _)
  · exact congrArg Host.Outcome.next (inRangeOr_of_true s (rowInImage_and_eq_true hc hy hg) _ _ _)
  · exact congrArg Host.Outcome.next (inRangeOr_of_true s ((rowInImage_iff s y).mpr ⟨hc, hy⟩) _ _ _)

/-- Settles O33: inside the image the two units return their functions of SRC. -/
theorem monochromeUnitsComplete : Obligations.MonochromeUnitsComplete := by
  intro s y h hc hy
  refine ⟨fun g hg => (exec_group1_active h y g).trans ?_, (exec_row1_of_selectsMonochrome h y).trans ?_⟩
  · exact congrArg Host.Outcome.next (inRangeOr_of_true s (rowInImage_and_eq_true hc hy hg) _ _ _)
  · exact congrArg Host.Outcome.next (inRangeOr_of_true s ((rowInImage_iff s y).mpr ⟨hc, hy⟩) _ _ _)

/-- Settles O35: outside the image each of the five units draws free values, ROW4 and ROW1 one for each byte of the row. -/
theorem unitsOutsideImageReturnFreeValues : Obligations.UnitsOutsideImageReturnFreeValues := by
  refine ⟨fun s P y h => ⟨fun j hj => (exec_code4_active h y j).trans ?_,
      fun g hg => (exec_group4_active h y g).trans ?_, fun hy => (exec_row4_active h y).trans ?_⟩,
    fun s y h => ⟨fun g hg => (exec_group1_active h y g).trans ?_,
      fun hy => (exec_row1_of_selectsMonochrome h y).trans ?_⟩⟩
  · exact congrArg Host.Outcome.next (inRangeOr_of_false s (rowInImage_and_eq_false hj) _ _ _)
  · exact congrArg Host.Outcome.next (inRangeOr_of_false s (rowInImage_and_eq_false hg) _ _ _)
  · exact congrArg Host.Outcome.next (inRangeOr_of_false s ((rowInImage_eq_false_iff s y).mpr hy) _ _ _)
  · exact congrArg Host.Outcome.next (inRangeOr_of_false s (rowInImage_and_eq_false hg) _ _ _)
  · exact congrArg Host.Outcome.next (inRangeOr_of_false s ((rowInImage_eq_false_iff s y).mpr hy) _ _ _)

-- The units under the other selectors (log 8).

theorem unit4_inactive {s : State} (h : ∀ P, ¬ SelectsFourColor s P) (f : Palette → State) : unit4 s f = .next s := by
  have hnone : activePalette s = none :=
    Option.eq_none_iff_forall_ne_some.mpr fun P hP => h P ((activePalette_iff s P).mp hP)
  rw [unit4, hnone]

theorem unit1_inactive {s : State} (h : ¬ SelectsMonochrome s) (r : State) : unit1 s r = .next s :=
  if_neg (mt (monoActive_iff s).mp h)

theorem not_selectsFourColor {s : State} (h : s.mode ≠ 0 ∨ (s.palsel ≠ 0 ∧ s.palsel ≠ 1)) (P : Palette) :
    ¬ SelectsFourColor s P := by
  rintro ⟨hmode, ⟨hpal, -⟩ | ⟨hpal, -⟩⟩ <;> simp [hmode, hpal] at h

/-- Settles O34: a unit that is not active does nothing. -/
theorem inactiveUnitsDoNothing : Obligations.InactiveUnitsDoNothing := by
  refine ⟨fun s p q y j g h => ?_, fun s p y g (h : ¬ SelectsMonochrome s) => ?_⟩
  · have hinactive := unit4_inactive (not_selectsFourColor h)
    exact ⟨hinactive _, hinactive _, hinactive _, hinactive _, hinactive _, hinactive _⟩
  · have hinactive := unit1_inactive h
    exact ⟨hinactive _, hinactive _, hinactive _, hinactive _⟩

end Sys2Proof.Machine
end

section
/-! PROOFS. HOST's reads of the progress registers and the primitives (45_host_interface.md R127, R141 to R150, 20_memory.md R31, R34): OutRead,
SrcWrite and RESET, and the operands and states that fault (logs 9, 10). -/

namespace Sys2Proof.Machine

/-- Settles O9: each of the four reads returns its register and leaves the rest. -/
theorem progressRegisterReads : Obligations.ProgressRegisterReads :=
  ⟨readsRegister_of_returnRdata rfl fun _ => rfl, readsRegister_of_returnRdata rfl fun _ => rfl,
    readsRegister_of_returnRdata rfl fun _ => rfl, readsRegister_of_returnRdata rfl fun _ => rfl⟩

-- OutRead (R149).

theorem exec_outRead_of_lt (s : State) {k : BitVec 13} (hk : k.toNat < 6144) :
    exec (.outRead k) s =
      .next ((s.withReply (.outByte (outReadValue s k.toNat).1)).drew (outReadValue s k.toNat).2) := if_pos hk

theorem exec_outRead_of_le (s : State) {k : BitVec 13} (hk : 6144 ≤ k.toNat) :
    exec (.outRead k) s = .fault .outAddress := if_neg (not_lt.mpr hk)

theorem outReadValue_of_read? {s : State} {k : Nat} {v : Byte} (hk : k < s.outCnt.toNat)
    (hv : Memory.read? s.out k = some v) : outReadValue s k = (v, 0) := by
  rw [outReadValue, if_pos hk, hv]

theorem outReadValue_of_le {s : State} {k : Nat} (hk : s.outCnt.toNat ≤ k) :
    outReadValue s k = (Config.outUnspecified s.draws, 1) := if_neg (not_lt.mpr hk)

/-- Settles O18: the byte of the stream draws no free value, an offset at or above OUT_CNT one. -/
theorem outReadReturnsStreamByte : Obligations.OutReadReturnsStreamByte := by
  intro s k hk
  rw [exec_outRead_of_lt s hk]
  refine ⟨fun v hlt hv => ?_, fun hle => ?_⟩
  · rw [outReadValue_of_read? hlt hv]; rfl
  · rw [outReadValue_of_le hle]; rfl

-- SrcWrite (20_memory.md R34).

theorem exec_srcWrite_of_lt (s : State) {a : BitVec 18} (v : Byte) (ha : a.toNat < 147456) :
    exec (.srcWrite a v) s = .next { s with src := Memory.write s.src a.toNat v } := if_pos ha

theorem srcByte_write (m : Memory) (a b : Nat) (v : Byte) :
    srcByte (Memory.write m a v) b = if b = a then v else srcByte m b := by
  rw [srcByte, Memory.read?_write]
  split <;> rfl

/-- Settles O19: SRC after the write is the memory with one byte written. -/
theorem srcWriteThenRead : Obligations.SrcWriteThenRead := by
  intro s a v ha
  exact ⟨_, exec_srcWrite_of_lt s v ha, rfl, fun b => srcByte_write s.src a.toNat b v⟩

-- STEP (44_encoder.md R112).

theorem exec_step_of_not_run {s : State} (hr : s.phase ≠ .run) : exec .step s = .next s := if_neg hr

/-- Settles O17: the sequencer has no step outside RUN. -/
theorem noGroupStepOutsideRun : Obligations.NoGroupStepOutsideRun := fun _ => exec_step_of_not_run

theorem exec_step_of_ready {s : State} {op : EncOp} (hr : s.phase = .run) (h : runReady s = some op) :
    exec .step s = .next (groupStep op s) := by
  change seqStep s = _
  rw [seqStep, if_pos hr, h]

theorem exec_step_of_not_ready {s : State} (hr : s.phase = .run) (h : runReady s = none) :
    exec .step s = .fault .inconsistentRun := by
  change seqStep s = _
  rw [seqStep, if_pos hr, h]

/-- The check fails exactly when one of its four conditions does: a legal configuration always selects an operation. -/
theorem runReady_eq_none_iff (s : State) :
    runReady s = none ↔
      ¬ ConfigLegal s.mode s.palsel s.cfgW.toNat s.cfgH.toNat ∨ s.cfgH.toNat ≤ s.posY.toNat ∨
        specStride s.mode s.cfgW.toNat ≤ s.posG.toNat ∨ 6144 ≤ s.outCnt.toNat := by
  rw [Option.eq_none_iff_forall_ne_some]
  simp only [ne_eq, runReady_iff, ← not_lt, ← not_and_or]
  refine ⟨fun h hall => ?_, fun h op hop => h hop.2⟩
  obtain ⟨op, hop⟩ := selects_of_legal hall.1
  exact h op ⟨hop, hall⟩

/-- Settles O20: OutRead and SrcWrite by their offset, STEP by the check of its RUN state. -/
theorem faultsOutsideTheSpaces : Obligations.FaultsOutsideTheSpaces := by
  refine ⟨fun s k => exec_outRead_of_le s, fun s a v ha => if_neg (not_lt.mpr ha), fun s hr => ?_⟩
  rw [← runReady_eq_none_iff]
  cases hready : runReady s with
  | none =>
    have hfault := exec_step_of_not_ready hr hready
    exact ⟨iff_of_true hfault rfl, fun h => absurd hfault h⟩
  | some op =>
    rw [exec_step_of_ready hr hready]
    exact ⟨iff_of_false nofun nofun, fun _ => ⟨_, rfl⟩⟩

-- RESET (R150).

/-- Settles O21: RESET is the reset state with HOST's memory, requests and records. -/
theorem resetRestoresRegisters : Obligations.ResetRestoresRegisters := fun _ => rfl

/-- Settles O22: the reset state and the palettes, value by value. -/
theorem resetStateValues : Obligations.ResetStateValues :=
  ⟨rfl, rfl, rfl, rfl, rfl, rfl, rfl, rfl, rfl, rfl, rfl, rfl, rfl, rfl⟩

end Sys2Proof.Machine
end

section
/-! PROOFS. Encode as a function of SRC (20_memory.md R33, 44_encoder.md R108), the operations of the selector map against it (44_encoder.md R113 to
R116, 60_exceptions.md R161, R162; their form is log 7), and PALSEL in Monochrome mode (10_state.md R15). -/

namespace Sys2Proof.Machine

-- Encode (44_encoder.md R108).

/-- Settles O36: Encode lists the bytes of the stream, of which byte y * stride + g is group g of row y. -/
theorem encodeIsRowsOfGroupBytes : Obligations.EncodeIsRowsOfGroupBytes := by
  intro m op w h
  refine ⟨encodeImage_length m op w h, fun y g hy hg => ?_⟩
  have hlt : y * stride op w + g < total op w h :=
    calc y * stride op w + g < (y + 1) * stride op w := by rw [Nat.succ_mul]; omega
      _ ≤ h * stride op w := Nat.mul_le_mul_right _ hy
      _ = total op w h := Nat.mul_comm _ _
  rw [encodeImage_eq, List.getElem?_map, List.getElem?_range hlt, Option.map_some, streamByte_row m op w y hg]

section Agree

variable {m m' : Memory} {w h : Nat} (hm : AgreeBelow (w * h * 3) m m') {y : Nat} (hy : y < h)
include hm hy

/-- A pixel of the image lies below W * H * 3. -/
theorem pix_congr {x : Nat} (hx : x < w) : pix m w y x = pix m' w y x := by
  have hlt : y * w + x < w * h :=
    calc y * w + x < (y + 1) * w := by rw [Nat.succ_mul]; omega
      _ ≤ h * w := Nat.mul_le_mul_right _ hy
      _ = w * h := Nat.mul_comm _ _
  simp only [pix, srcByte]
  rw [hm _ (by omega), hm _ (by omega), hm _ (by omega)]

theorem slot4_congr (P : Palette) (g i : Nat) : slot4 m P w y g i = slot4 m' P w y g i := by
  unfold slot4
  split
  next hlt =>
    rw [mergedWidth] at hlt
    rw [code4Of, code4Of, pix_congr hm hy (by omega), pix_congr hm hy (by omega)]
  next => rfl

theorem slot1_congr (g k : Nat) : slot1 m w y g k = slot1 m' w y g k := by
  unfold slot1
  split
  next hlt => rw [pix_congr hm hy hlt]
  next => rfl

theorem groupByteOf_congr (op : EncOp) (g : Nat) : groupByteOf m op w y g = groupByteOf m' op w y g := by
  cases op with
  | fourColor P => simp only [groupByteOf, group4Of, slot4_congr hm hy]
  | monochrome => simp only [groupByteOf, group1Of, slot1_congr hm hy]

end Agree

/-- Settles O42: the groups of a row of the image read its pixels only. -/
theorem encodeReadsOnlyTheImage : Obligations.EncodeReadsOnlyTheImage := by
  intro m m' mode palsel op w h _ _ hm
  have hrow : ∀ y ∈ List.range h, rowOf m op w y = rowOf m' op w y := fun y hy =>
    List.map_congr_left fun g _ => groupByteOf_congr hm (List.mem_range.mp hy) op g
  exact List.flatMap_congr hrow

-- A run of the selector map, in the four ways its START goes.

section Selected

variable {s : State} {m p : BitVec 2} (hr : s.phase ≠ .run)
include hr

/-- A START that raises an error is all of the operation. -/
theorem runSelected_of_raise {e : ErrorKind} (h : start (s.select m p) = (s.select m p).emptyStream.raise e) :
    runSelected m p s = (s.select m p).emptyStream.raise e := by
  rw [runSelected, if_neg hr, h, if_neg (by simp)]

theorem runSelected_of_not_legal (hc : ¬ ConfigLegal m p s.cfgW.toNat s.cfgH.toNat) :
    runSelected m p s = (s.select m p).emptyStream.raise .invalidConfiguration :=
  runSelected_of_raise hr (start_of_not_legal hr hc)

variable (hc : ConfigLegal m p s.cfgW.toNat s.cfgH.toNat)
include hc

theorem runSelected_of_dims_ne (hd : ¬ (s.imgW = s.cfgW ∧ s.imgH = s.cfgH)) :
    runSelected m p s = (s.select m p).emptyStream.raise .dimensionMismatch :=
  runSelected_of_raise hr (start_of_dims_ne hr hc hd)

/-- An accepted operation takes the Total group steps of the operation it selects. -/
theorem runSelected_of_accepted (hw : s.imgW = s.cfgW) (hh : s.imgH = s.cfgH) {op : EncOp} (hop : Selects m p op) :
    runSelected m p s = groupSteps op (total op s.w s.h) (s.select m p).emptyStream.accept := by
  have hstart : start (s.select m p) = (s.select m p).emptyStream.accept := start_of_accepted hr hc hw hh
  have hop' : (s.select m p).emptyStream.accept.op = some op := (op_iff _ _).mpr hop
  rw [runSelected, if_neg hr, hstart, if_pos (by simp), finishRun_eq hop']
  rfl

end Selected

theorem exec_of_encodesWith {i : Instr} {m p : BitVec 2} (h : EncodesWith i m p) (s : State) :
    exec i s = .next (runSelected m p s) := by
  rcases h with ⟨rfl, rfl, rfl⟩ | ⟨rfl, rfl, rfl⟩ | ⟨rfl, rfl⟩ <;> rfl

/-- Settles O38: the selector is placed, and the START on it raises its error. -/
theorem encodingOperationsRaiseAtStart : Obligations.EncodingOperationsRaiseAtStart := by
  intro s i m p hi
  rw [exec_of_encodesWith hi]
  refine ⟨fun hr => ?_, fun hr hc => ?_, fun hr hc hd => ?_⟩
  · rw [runSelected_of_run hr]
  · rw [runSelected_of_not_legal hr hc]; rfl
  · rw [runSelected_of_dims_ne hr hc hd]; rfl

theorem not_configLegal_of_reserved_palsel (p : BitVec 1) (w h : Nat) : ¬ ConfigLegal 0 (1#1 ++ p) w h := by
  rintro ⟨-, -, -, -, -, hmode | ⟨hpal, -⟩⟩
  · exact absurd hmode (by decide)
  · revert p; decide

theorem not_configLegal_of_reserved_mode (b : BitVec 1) (palsel : BitVec 2) (w h : Nat) :
    ¬ ConfigLegal (1#1 ++ b) palsel w h := by
  rintro ⟨hmode, -⟩
  revert b; decide

/-- Settles O39: no sizes make a reserved selector legal. -/
theorem reservedSelectorsRaiseInvalidConfiguration : Obligations.ReservedSelectorsRaiseInvalidConfiguration := by
  refine ⟨fun s p => ⟨fun hr => ?_, fun hr => ?_⟩, fun s p => ⟨fun hr => ?_, fun hr => ?_⟩⟩
  · exact congrArg Host.Outcome.next (runSelected_of_not_legal hr (not_configLegal_of_reserved_palsel p _ _))
  · exact congrArg Host.Outcome.next (runSelected_of_run hr _ _)
  · exact congrArg Host.Outcome.next (runSelected_of_not_legal hr (not_configLegal_of_reserved_mode _ _ _ _))
  · exact congrArg Host.Outcome.next (runSelected_of_run hr _ _)

-- The end of a run (R113 to R116).

/-- R113: after the last of its Total steps a run that began with an empty stream is in DONE at (CFG_H, 0). -/
theorem groupSteps_total {s : State} {op : EncOp} (hs : InRun s) (hop : Selects s.mode s.palsel op) (h0 : s.outCnt = 0) :
    (groupSteps op (total op s.w s.h) s).phase = .done ∧
      (groupSteps op (total op s.w s.h) s).posY.toNat = s.h ∧ (groupSteps op (total op s.w s.h) s).posG = 0 := by
  obtain ⟨k, hk⟩ := Nat.exists_eq_add_one_of_ne_zero (Nat.one_le_iff_ne_zero.mp (total_bounds (hs.sizesValid hop)).1)
  obtain ⟨hrun, hcnt, -⟩ := groupSteps_before_last hs hop h0 (by omega : k < total op s.w s.h)
  have hlast := groupStep_last hrun (selects_groupSteps hop k) (by rw [hcnt, groupSteps_w, groupSteps_h, hk])
  rwa [← groupSteps_succ, groupSteps_h, ← hk] at hlast

/-- Group steps change PHASE, the position and the stream. -/
theorem groupSteps_frame (op : EncOp) (n : Nat) (s : State) :
    groupSteps op n s = { s with phase := (groupSteps op n s).phase, posY := (groupSteps op n s).posY,
                                 posG := (groupSteps op n s).posG, outCnt := (groupSteps op n s).outCnt,
                                 out := (groupSteps op n s).out } := by
  apply State.ext <;> simp

/-- The end of a run that began with an empty stream: DONE at (CFG_H, 0), with Encode as its stream and nothing behind it changed. -/
theorem groupSteps_end {s : State} {op : EncOp} (hs : InRun s) (hop : Selects s.mode s.palsel op) (h0 : s.outCnt = 0) :
    ∃ t, groupSteps op (total op s.w s.h) s = t ∧
      t = { s with phase := .done, posY := s.cfgH.setWidth 8, posG := 0, outCnt := t.outCnt, out := t.out } ∧
      t.outCnt.toNat = total op s.w s.h ∧ streamOf t = (encodeImage s.src op s.w s.h).map some ∧
      ∀ a, t.outCnt.toNat ≤ a → Memory.read? t.out a = Memory.read? s.out a := by
  obtain ⟨hphase, hy, hg⟩ := groupSteps_total hs hop h0
  obtain ⟨hcnt, hread⟩ := groupSteps_read hs hop h0 (Nat.le_refl _)
  have hstream := streamOf_groupSteps hs hop h0 (Nat.le_refl _)
  have hposY : (groupSteps op (total op s.w s.h) s).posY = s.cfgH.setWidth 8 := by
    obtain ⟨-, -, -, -, hheight, -⟩ := hs.config
    apply BitVec.eq_of_toNat_eq
    rw [hy, BitVec.toNat_setWidth]
    exact (Nat.mod_eq_of_lt (by omega)).symm
  rw [List.take_of_length_le (encodeImage_length ..).le] at hstream
  refine ⟨_, rfl, ?_, hcnt, hstream, fun a ha => ?_⟩
  · exact (groupSteps_frame op _ s).trans (by rw [hphase, hposY, hg])
  · rw [hread, if_neg (by omega)]

/-- Settles O37: the run is the one of the state that the accepted START leaves. -/
theorem encodingOperationsProduceEncode : Obligations.EncodingOperationsProduceEncode := by
  intro s i m p op hi hop hr hc hw hh
  have hs : InRun (s.select m p).emptyStream.accept := inRun_accept hc hw hh
  obtain ⟨t, ht, hframe, hcnt, hstream, hread⟩ := groupSteps_end hs hop rfl
  have hexec : exec i s = .next t := by
    rw [exec_of_encodesWith hi, runSelected_of_accepted hr hc hw hh hop]
    exact congrArg Host.Outcome.next ht
  exact ⟨t, hexec, hframe, hcnt.trans (total_eq_spec hop _ _), hstream, hread⟩

-- The script of an operation (log 7).

/-- Without requests the machine takes the group steps of a run one by one. -/
theorem core_run_groupSteps {s : State} {op : EncOp} (hs : InRun s) (hop : Selects s.mode s.palsel op)
    (hscript : s.script = []) {k : Nat} (hk : s.outCnt.toNat + k ≤ total op s.w s.h) :
    Host.Core.run Sys2Proof.core k s = .next (groupSteps op k s) := by
  induction k generalizing s with
  | zero => rfl
  | succ k ih =>
    have hstep : step s = .next (groupStep op s) := by
      rw [step_of_no_request_in_run hscript hs.phase, exec_step_of_inRun hs hop]
    rw [core_run_next hstep]
    cases k with
    | zero => rfl
    | succ k =>
      refine ih (inRun_groupStep hs hop (by omega)) (by simpa using hop) (by simpa using hscript) ?_
      rw [groupStep_outCnt_toNat hs hop, groupStep_w, groupStep_h]
      omega

/-- A request that encodes an operation is taken and run. -/
theorem core_run_request {s t : State} {i : Instr} {rest : List Request} (n : Nat)
    (h : exec i { s with script := rest } = .next t) :
    Host.Core.run Sys2Proof.core (n + 1) { s with script := encode i :: rest } = Host.Core.run Sys2Proof.core n t :=
  core_run_next ((step_of_request rfl (decodeInvertsEncode i)).trans h)

/-- Settles O40: the three requests select and start, and the Total steps are those of the operation. -/
theorem encodingOperationIsItsScript : Obligations.EncodingOperationIsItsScript := by
  intro s i m p hi hr hscript hc hw hh
  obtain ⟨op, hop⟩ := selects_of_legal hc
  have hs : InRun (s.select m p).emptyStream.accept := inRun_accept hc hw hh
  have hmode : exec (.wrMode m) { s with script := [encode (.wrPalsel p), encode .start] } =
      .next { s with mode := m, script := [encode (.wrPalsel p), encode .start] } :=
    congrArg Host.Outcome.next (State.configure_not_run _ _ hr)
  have hpalsel : exec (.wrPalsel p) { s with mode := m, script := [encode .start] } =
      .next { s with mode := m, palsel := p, script := [encode .start] } :=
    congrArg Host.Outcome.next (State.configure_not_run _ _ hr)
  have hstart : exec .start { s with mode := m, palsel := p, script := [] } =
      .next (s.select m p).emptyStream.accept := by
    rw [← hscript]
    exact congrArg Host.Outcome.next (start_of_accepted hr hc hw hh)
  have hrun : Host.Core.run Sys2Proof.core (total op s.w s.h) (s.select m p).emptyStream.accept =
      .next (groupSteps op (total op s.w s.h) (s.select m p).emptyStream.accept) :=
    core_run_groupSteps hs hop hscript (Nat.zero_add _).le
  rw [exec_of_encodesWith hi, runSelected_of_accepted hr hc hw hh hop, ← total_eq_spec hop, Nat.add_comm]
  exact (core_run_request _ hmode).trans <| (core_run_request (s := { s with mode := m }) _ hpalsel).trans <|
    (core_run_request (s := { s with mode := m, palsel := p }) _ hstart).trans hrun

-- PALSEL in Monochrome mode (10_state.md R15, 43_pack1.md R101).

section Monochrome

variable {s : State} (h : s.mode = 1) (p : BitVec 2)
include h

theorem configValid_palsel : configValid { s with palsel := p } = configValid s := by
  rw [Bool.eq_iff_iff, configValid_iff, configValid_iff]
  simp [ConfigLegal, h]

theorem op_of_monochrome : s.op = some .monochrome :=
  (op_iff s _).mpr (.inr (.inr ⟨h, rfl⟩))

theorem runReady_palsel : runReady { s with palsel := p } = runReady s := by
  have hp : State.op { s with palsel := p } = some .monochrome := op_of_monochrome (s := { s with palsel := p }) h
  rw [runReady, runReady, hp, op_of_monochrome h]

/-- START judges the sizes of Monochrome mode, which do not depend on PALSEL. -/
theorem start_with_palsel : start { s with palsel := p } = { start s with palsel := p } := by
  have hc := configValid_palsel h p
  have hdims : dimMatch { s with palsel := p } = dimMatch s := rfl
  rcases start_cases s with ⟨hr, hs⟩ | ⟨hr, hv, hs⟩ | ⟨hr, hv, hd, hs⟩ | ⟨hr, hv, hd, hs⟩ <;> rw [hs, start]
  · rw [if_pos hr]
  · rw [if_neg hr, if_pos (hc.trans hv)]; rfl
  · rw [if_neg hr, if_neg (by simp [hc, hv]), if_pos (hdims.trans hd)]; rfl
  · rw [if_neg hr, if_neg (by simp [hc, hv]), if_neg (by simp [hdims, hd])]; rfl

end Monochrome

/-- A group step reads the operation, not PALSEL. -/
theorem groupStep_with_palsel (op : EncOp) (s : State) (p : BitVec 2) :
    groupStep op { s with palsel := p } = { groupStep op s with palsel := p } := by
  apply State.ext <;> simp [groupStep_out, groupStep_outCnt, groupStep_posY, groupStep_posG, groupStep_phase]

theorem exec_step_with_palsel {s t : State} (h : s.mode = 1) (p : BitVec 2) (ht : exec .step s = .next t) :
    exec .step { s with palsel := p } = .next { t with palsel := p } := by
  rcases seqStep_next ht with ⟨hr, op, hready, rfl⟩ | ⟨hr, rfl⟩
  · rw [← groupStep_with_palsel]
    exact exec_step_of_ready hr ((runReady_palsel h p).trans hready)
  · exact exec_step_of_not_run hr

theorem exec_outRead_with_palsel {s t : State} {k : BitVec 13} (p : BitVec 2) (ht : exec (.outRead k) s = .next t) :
    exec (.outRead k) { s with palsel := p } = .next { t with palsel := p } := by
  obtain hk | hk := Nat.lt_or_ge k.toNat 6144
  · rw [exec_outRead_of_lt s hk] at ht
    cases ht
    exact exec_outRead_of_lt _ hk
  · rw [exec_outRead_of_le s hk] at ht
    cases ht

/-- Settles O43: in MODE 1 the check of START and that of STEP do not depend on PALSEL, and OutRead reads OUT and OUT_CNT only. -/
theorem monochromeIgnoresPalsel : Obligations.MonochromeIgnoresPalsel := by
  intro s t p h
  refine ⟨fun ht => ?_, exec_step_with_palsel h p, fun k => exec_outRead_with_palsel p⟩
  rw [exec_start] at ht ⊢
  cases ht
  rw [start_with_palsel h]

end Sys2Proof.Machine
end
